-- ==== Sys2Proof/Word.lean ====
section
/-! DEFINITION. The word types of the AS2650-2 and their plainest helpers (spec/00_scope.md R7, R8). -/

namespace Sys2Proof

/-- An 8-bit value (R8). -/
abbrev Byte := BitVec 8

/-- A 16-bit value: an address, an Instruction Pointer, a stack entry (R7). -/
abbrev Word := BitVec 16

end Sys2Proof
end

