-- ==== Sys2Proof/Config.lean ====
section
/-! DEFINITION. What the platform and the implementation fix, and the free values (spec/00_scope.md R6,
spec/93_implementation_defined.md). An `opaque` constant here has no body: nothing can be proved of its value, so a
statement holds whatever it is. The parameters to which the spec itself gives a value (PTR_WRAP, FAR_I_MODE,
ROT_OVF, CPL_BASE) stand beside the operations that read them (Machine/Operands.lean, Machine/Flags.lean, Decode.lean). -/

namespace Sys2Proof

/-- Why a byte of memory is read: which of the reads of one instruction it is (R101, R118, R140), or which of the reads of
one interrupt entry, by its place (R306). Only the free value of an unmapped or device address depends on it. -/
inductive MemAccess where
  | fetch
  | pointerHigh
  | pointerLow
  | data
  | vector (place : Nat)
deriving DecidableEq, Repr

/-- The I/O spaces of R68: the control port, the data port, and the 256 locations of the extended space. -/
inductive IoPort where
  | ctrl
  | data
  | ext (a : Byte)
deriving DecidableEq, Repr

/-- An interrupt source (R301, R302): the software trap, or a source of the platform, known by a number. -/
inductive IrqSource where
  | trap
  | platform (id : Nat)
deriving DecidableEq, Repr

/-- What the platform has at a region of memory (R65). An address in no region is unmapped. -/
inductive MapKind where
  | ram
  | rom
  | device
deriving DecidableEq, Repr

/-- One region of the platform's memory map: the addresses `base`, ..., `base + size - 1`. -/
structure Region where
  base : Nat
  size : Nat
  kind : MapKind
deriving DecidableEq, Repr

/-- How the second byte of a pointer is found (R118): inside the page of the first, or at the next 16-bit address. -/
inductive PtrKind where
  | page
  | flat
deriving DecidableEq, Repr

/-- The two readings of ldfi and stfi (R117, C6). -/
inductive FarIMode where
  | indirect
  | indexed
deriving DecidableEq, Repr

/-- The two readings of a rotate's effect on OVF with WC = 1 (ROT_OVF, R6, C9). -/
inductive RotOvf where
  | unchanged
  | changed
deriving DecidableEq, Repr

/-- RESET_IP (R6, R340): the spec leaves it open with the default 0000h. DESIGN CHOICE, log 5. -/
def Config.resetIp : Word := 0x0000#16

/-- The byte a RAM or ROM address holds when nothing has been written to it since reset: any value, fixed at reset
(R65, R342, D2). Free value, log 7. -/
opaque Config.powerOnByte (a : Word) : Byte

/-- The byte a read of an unmapped or device address returns (R65): any value, one for each access. Free value, log 9. -/
opaque Config.busByte (draw : Nat) (kind : MemAccess) (a : Word) : Byte

/-- The level of the Sense input when the instruction numbered `draw` samples it (R31). Free value, log 11. -/
opaque Config.senseLevel (draw : Nat) : Bool

/-- The byte an I/O read returns (R68, R222, R223, R225). Free value, log 12. -/
opaque Config.ioByte (draw : Nat) (port : IoPort) : Byte

/-- What OVF becomes under the reading that a rotate changes it, to which the spec gives no value (R210, C9). Free value,
log 22. -/
opaque Config.rotateOvf (draw : Nat) : Bool

/-- The priority number of a source of the platform (R307): on a page that is not among the sources. Log 14. -/
opaque Config.irqNumber (id : Nat) : Nat

/-- IRQ_PRIORITY (R307): the rank of a source, with its priority number, in the order of service; the least is served
first. The order is total whatever the ranks are (Machine/Ops.lean, `servedBefore`). Whether a smaller number is the
higher priority is not in the source. Log 14. -/
opaque Config.irqRank (number : Nat) (src : IrqSource) : Nat

/-- IRQ_TARGET (R306): the addresses that taking the interrupt of a source reads, in their order: none where the vector table
holds handler code, those of the handler's address where it holds addresses. Log 15. -/
opaque Config.irqVector (ivb : Word) (src : IrqSource) : List Word

/-- IRQ_TARGET (R306): where execution continues when the interrupt of a source is taken, from the vector base and the bytes
read at the addresses of `Config.irqVector`. Log 15. -/
opaque Config.irqTarget (ivb : Word) (src : IrqSource) (bytes : List Byte) : Word

end Sys2Proof
end

