-- ==== Sys2Proof/Syntax.lean ====
section
/-! DEFINITION. The syntax of the AS2650-2's instructions: one constructor for each row of spec/opcode_table.json, with the
operand fields of spec/30_encoding.md R102 to R108. The maps from bytes are in Decode.lean. -/

namespace Sys2Proof

/-- The register a 2-bit index names (R111); which physical register it is depends on PSL.RS (R21). -/
inductive Reg where
  | r0
  | r1
  | r2
  | r3
deriving DecidableEq, Repr

/-- A condition mask (R111): equal, greater, less, unconditional. -/
inductive Cond where
  | eq
  | gt
  | lt
  | un
deriving DecidableEq, Repr

/-- Index Control (R119). -/
inductive IndexControl where
  | none
  | autoInc
  | autoDec
  | indexed
deriving DecidableEq, Repr

/-- The operand byte of the Relative format (R105): the indirect bit and the 7-bit displacement. -/
structure RelOperand where
  ind : Bool
  disp : BitVec 7
deriving DecidableEq, Repr

/-- The operand bytes of the Absolute format for non-branch instructions (R106). -/
structure AbsOperand where
  ind : Bool
  ic : IndexControl
  addr : BitVec 13
deriving DecidableEq, Repr

/-- The operand bytes of the Absolute format for branch instructions (R107). -/
structure BranchOperand where
  ind : Bool
  addr : BitVec 15
deriving DecidableEq, Repr

/-- The instructions, one constructor for each row of the opcode table (R120, R121). A comment names the rule. -/
inductive Instr where
  | lodz (r : Reg)  -- R144
  | lodi (r : Reg) (imm : Byte)  -- R145
  | lodr (r : Reg) (op : RelOperand)  -- R146
  | loda (r : Reg) (op : AbsOperand)  -- R147
  | eorz (r : Reg)  -- R148
  | eori (r : Reg) (imm : Byte)  -- R149
  | eorr (r : Reg) (op : RelOperand)  -- R150
  | eora (r : Reg) (op : AbsOperand)  -- R151
  | andz (r : Reg)  -- R152
  | andi (r : Reg) (imm : Byte)  -- R153
  | andr (r : Reg) (op : RelOperand)  -- R154
  | anda (r : Reg) (op : AbsOperand)  -- R155
  | iorz (r : Reg)  -- R156
  | iori (r : Reg) (imm : Byte)  -- R157
  | iorr (r : Reg) (op : RelOperand)  -- R158
  | iora (r : Reg) (op : AbsOperand)  -- R159
  | addz (r : Reg)  -- R160
  | addi (r : Reg) (imm : Byte)  -- R161
  | addr (r : Reg) (op : RelOperand)  -- R162
  | adda (r : Reg) (op : AbsOperand)  -- R163
  | subz (r : Reg)  -- R164
  | subi (r : Reg) (imm : Byte)  -- R165
  | subr (r : Reg) (op : RelOperand)  -- R166
  | suba (r : Reg) (op : AbsOperand)  -- R167
  | strz (r : Reg)  -- R168
  | strr (r : Reg) (op : RelOperand)  -- R169
  | stra (r : Reg) (op : AbsOperand)  -- R170
  | comz (r : Reg)  -- R171
  | comi (r : Reg) (imm : Byte)  -- R172
  | comr (r : Reg) (op : RelOperand)  -- R173
  | coma (r : Reg) (op : AbsOperand)  -- R174
  | bctr (m : Cond) (op : RelOperand)  -- R181
  | bcta (m : Cond) (op : BranchOperand)  -- R182
  | bstr (m : Cond) (op : RelOperand)  -- R183
  | bsta (m : Cond) (op : BranchOperand)  -- R184
  | brnr (r : Reg) (op : RelOperand)  -- R185
  | brna (r : Reg) (op : BranchOperand)  -- R186
  | bsnr (r : Reg) (op : RelOperand)  -- R187
  | bsna (r : Reg) (op : BranchOperand)  -- R188
  | bcfr (m : Cond) (op : RelOperand)  -- R189
  | bcfa (m : Cond) (op : BranchOperand)  -- R190
  | bsfr (m : Cond) (op : RelOperand)  -- R191
  | bsfa (m : Cond) (op : BranchOperand)  -- R192
  | birr (r : Reg) (op : RelOperand)  -- R193
  | bira (r : Reg) (op : BranchOperand)  -- R194
  | bdrr (r : Reg) (op : RelOperand)  -- R195
  | bdra (r : Reg) (op : BranchOperand)  -- R196
  | retc (m : Cond)  -- R197
  | rete (m : Cond)  -- R198
  | rrr (r : Reg)  -- R210
  | rrl (r : Reg)  -- R211
  | dar (r : Reg)  -- R212
  | wrtc (r : Reg)  -- R220
  | wrtd (r : Reg)  -- R221
  | redc (r : Reg)  -- R222
  | redd (r : Reg)  -- R223
  | wrte (r : Reg) (a : Byte)  -- R224
  | rede (r : Reg) (a : Byte)  -- R225
  | spsu  -- R230
  | spsl  -- R231
  | lpsu  -- R232
  | lpsl  -- R233
  | halt  -- R234
  | cpsu (mask : Byte)  -- R235
  | cpsl (mask : Byte)  -- R236
  | ppsu (mask : Byte)  -- R237
  | ppsl (mask : Byte)  -- R238
  | tpsu (mask : Byte)  -- R239
  | tpsl (mask : Byte)  -- R240
  | nop  -- R241
  | tmi (r : Reg) (mask : Byte)  -- R242
  | zbrr (op : RelOperand)  -- R250
  | zbsr (op : RelOperand)  -- R251
  | bxa (op : BranchOperand)  -- R252
  | bsxa (op : BranchOperand)  -- R253
  | push  -- R260
  | pop  -- R261
  | mul  -- R262
  | xchg  -- R263
  | clr (r : Reg)  -- R264
  | trap  -- R265
  | clrt  -- R266
  | cpl (r : Reg)  -- R267
  | pshs  -- R268
  | pops  -- R269
  | svb  -- R271
  | chrp  -- R272: reserved
  | lodf (r : Reg) (a : Word)  -- R280
  | ldfi (r : Reg) (a : Word)  -- R281
  | strf (r : Reg) (a : Word)  -- R282
  | stfi (r : Reg) (a : Word)  -- R283
  | bctf (m : Cond) (a : Word)  -- R284
  | bstf (m : Cond) (a : Word)  -- R285
  | brnf (r : Reg) (a : Word)  -- R286
  | bsnf (r : Reg) (a : Word)  -- R287
  | bcff (m : Cond) (a : Word)  -- R288
  | bsff (m : Cond) (a : Word)  -- R289
  | birf (r : Reg) (a : Word)  -- R290
  | bdrf (r : Reg) (a : Word)  -- R291
  | bxf (a : Word)  -- R292
  | bsxf (a : Word)  -- R293
  | extdPrefix  -- R109: the byte B7h with no opcode byte after it
  | reserved  -- R122: B6h
  | reservedExtended (op : Byte)  -- R122: B7h and a blank cell of the extended map
deriving DecidableEq, Repr

end Sys2Proof
end

