-- ==== Sys2Proof/WellFormed.lean ====
section
/-! DEFINITION. Which instruction terms stand for bytes of the opcode maps (spec/30_encoding.md R121, R122, R123). -/

namespace Sys2Proof

/-- The blank cells of the extended map, as R121 lists them (198 of 256). -/
def isBlankExtended (b : Byte) : Bool :=
  let n := b.toNat
  n ≤ 0x07 || (0x14 ≤ n && n ≤ 0x1B) || (0x20 ≤ n && n ≤ 0x3B) || (0x40 ≤ n && n ≤ 0x5B) ||
    (0x60 ≤ n && n ≤ 0x7B) || (0x80 ≤ n && n ≤ 0x8F) || (0x92 ≤ n && n ≤ 0x9B) || (0xA0 ≤ n && n ≤ 0xBB) ||
    (0xC0 ≤ n && n ≤ 0xC7) || (0xD0 ≤ n && n ≤ 0xDB) || (0xE4 ≤ n && n ≤ 0xFB)

/-- The checks on a term: `andz` and `strz` have no register 0, the branch-on-false families have no mask `un` (R123: those
cells hold other instructions), a reserved extended cell is a blank one (R121), and the prefix byte is not an
instruction by itself (R109). Every other operand value is legal (R122). -/
def Instr.wellFormed : Instr → Bool
  | .andz r => r != .r0
  | .strz r => r != .r0
  | .bcfr m _ => m != .un
  | .bcfa m _ => m != .un
  | .bsfr m _ => m != .un
  | .bsfa m _ => m != .un
  | .bcff m _ => m != .un
  | .bsff m _ => m != .un
  | .extdPrefix => false
  | .reservedExtended op => isBlankExtended op
  | .lodz _ | .lodi _ _ | .lodr _ _ | .loda _ _ | .eorz _ | .eori _ _ | .eorr _ _ | .eora _ _ => true
  | .andi _ _ | .andr _ _ | .anda _ _ | .iorz _ | .iori _ _ | .iorr _ _ | .iora _ _ => true
  | .addz _ | .addi _ _ | .addr _ _ | .adda _ _ | .subz _ | .subi _ _ | .subr _ _ | .suba _ _ => true
  | .strr _ _ | .stra _ _ | .comz _ | .comi _ _ | .comr _ _ | .coma _ _ => true
  | .bctr _ _ | .bcta _ _ | .bstr _ _ | .bsta _ _ | .brnr _ _ | .brna _ _ | .bsnr _ _ | .bsna _ _ => true
  | .birr _ _ | .bira _ _ | .bdrr _ _ | .bdra _ _ | .retc _ | .rete _ | .rrr _ | .rrl _ | .dar _ => true
  | .wrtc _ | .wrtd _ | .redc _ | .redd _ | .wrte _ _ | .rede _ _ => true
  | .spsu | .spsl | .lpsu | .lpsl | .halt | .cpsu _ | .cpsl _ | .ppsu _ | .ppsl _ | .tpsu _ | .tpsl _ => true
  | .nop | .tmi _ _ | .zbrr _ | .zbsr _ | .bxa _ | .bsxa _ | .push | .pop | .mul | .xchg | .clr _ => true
  | .trap | .clrt | .cpl _ | .pshs | .pops | .svb | .chrp | .lodf _ _ | .ldfi _ _ | .strf _ _ | .stfi _ _ => true
  | .bctf _ _ | .bstf _ _ | .brnf _ _ | .bsnf _ _ | .birf _ _ | .bdrf _ _ | .bxf _ | .bsxf _ | .reserved => true

/-- A well-formed instruction. -/
abbrev WellFormed (i : Instr) : Prop := i.wellFormed = true

end Sys2Proof
end

