-- ==== Sys2Proof/Decode.lean ====
section
/-! DEFINITION. The decoder and the encoder (spec/30_encoding.md R100 to R123). The decoder is total: every byte has a cell in a
map (a blank cell holds a reserved encoding), and the only bytes it rejects are too few of them. -/

namespace Sys2Proof

/-- Why a list of bytes is rejected: it ends before the instruction its first bytes begin (R100). Safe: nothing is
decoded from it. -/
inductive DecodeRefusal where
  | truncated
deriving DecidableEq, Repr

/-- The extension prefix byte (R5, R109). -/
def extPrefix : Byte := 0xB7#8

/-- CPL_BASE (R6, R267): the byte of `cpl,r0` after the prefix. C5 settles it as E0h, log 21. -/
def cplBase : Byte := 0xE0#8

/-- The register of a 2-bit index (R111). -/
def Reg.ofBits (f : BitVec 2) : Reg :=
  if f = 0#2 then .r0 else if f = 1#2 then .r1 else if f = 2#2 then .r2 else .r3

/-- The 2-bit index of a register (R111). -/
def Reg.bits : Reg → BitVec 2
  | .r0 => 0#2
  | .r1 => 1#2
  | .r2 => 2#2
  | .r3 => 3#2

/-- The condition of a 2-bit mask (R111). -/
def Cond.ofBits (f : BitVec 2) : Cond :=
  if f = 0#2 then .eq else if f = 1#2 then .gt else if f = 2#2 then .lt else .un

/-- The 2-bit mask of a condition (R111). -/
def Cond.bits : Cond → BitVec 2
  | .eq => 0#2
  | .gt => 1#2
  | .lt => 2#2
  | .un => 3#2

/-- The Index Control of bits 6:5 of the first address byte (R119). -/
def IndexControl.ofBits (f : BitVec 2) : IndexControl :=
  if f = 0#2 then .none else if f = 1#2 then .autoInc else if f = 2#2 then .autoDec else .indexed

/-- The bits 6:5 of an Index Control (R119). -/
def IndexControl.bits : IndexControl → BitVec 2
  | .none => 0#2
  | .autoInc => 1#2
  | .autoDec => 2#2
  | .indexed => 3#2

/-- Bits 1:0 of an opcode byte: the register index. -/
def Reg.field (r : Reg) : Byte := r.bits.setWidth 8

/-- Bits 1:0 of an opcode byte: the condition mask. -/
def Cond.field (m : Cond) : Byte := m.bits.setWidth 8

/-- The Relative operand byte (R105): `I` in bit 7, the displacement in bits 6:0. -/
def RelOperand.ofByte (b : Byte) : RelOperand := ⟨b.getLsbD 7, b.extractLsb' 0 7⟩

def RelOperand.toByte (op : RelOperand) : Byte := BitVec.ofBool op.ind ++ op.disp

/-- The two address bytes of the Absolute format (R106): `I`, Index Control, `addr[12:8]`; `addr[7:0]`. -/
def AbsOperand.ofBytes (b1 b2 : Byte) : AbsOperand :=
  ⟨b1.getLsbD 7, IndexControl.ofBits (b1.extractLsb' 5 2), b1.extractLsb' 0 5 ++ b2⟩

def AbsOperand.highByte (op : AbsOperand) : Byte :=
  (BitVec.ofBool op.ind ++ op.ic.bits) ++ op.addr.extractLsb' 8 5

def AbsOperand.lowByte (op : AbsOperand) : Byte := op.addr.extractLsb' 0 8

/-- The two address bytes of the Absolute branch format (R107): `I`, `addr[14:8]`; `addr[7:0]`. -/
def BranchOperand.ofBytes (b1 b2 : Byte) : BranchOperand := ⟨b1.getLsbD 7, b1.extractLsb' 0 7 ++ b2⟩

def BranchOperand.highByte (op : BranchOperand) : Byte := BitVec.ofBool op.ind ++ op.addr.extractLsb' 8 7

def BranchOperand.lowByte (op : BranchOperand) : Byte := op.addr.extractLsb' 0 8

/-- The two address bytes of the Far format (R108): `addr[15:8]`; `addr[7:0]`. -/
def farAddress (b1 b2 : Byte) : Word := b1 ++ b2

def farHigh (a : Word) : Byte := a.extractLsb' 8 8

def farLow (a : Word) : Byte := a.extractLsb' 0 8

/-- What a cell of an opcode map holds: the format of the operand bytes that follow the opcode byte (R100), and the
instruction they complete. -/
inductive Entry where
  | one (i : Instr)
  | imm (f : Byte → Instr)
  | rel (f : RelOperand → Instr)
  | abs (f : AbsOperand → Instr)
  | branch (f : BranchOperand → Instr)
  | far (f : Word → Instr)

/-- How many operand bytes follow the opcode byte (R100). -/
def Entry.operandBytes : Entry → Nat
  | .one _ => 0
  | .imm _ => 1
  | .rel _ => 1
  | .abs _ => 2
  | .branch _ => 2
  | .far _ => 2

/-- Four cells that share bits 7:2 and hold unrelated instructions. -/
def cell4 (f : BitVec 2) (e0 e1 e2 e3 : Entry) : Entry :=
  if f = 0#2 then e0 else if f = 1#2 then e1 else if f = 2#2 then e2 else e3

/-- The base map (R120), by bits 7:2 of the opcode byte; `f` is bits 1:0. -/
def baseEntry (b : Byte) : Entry :=
  let f := b.extractLsb' 0 2
  match (b &&& 0xFC#8).toNat with
  | 0x00 => .one (.lodz (Reg.ofBits f))
  | 0x04 => .imm (.lodi (Reg.ofBits f))
  | 0x08 => .rel (.lodr (Reg.ofBits f))
  | 0x0C => .abs (.loda (Reg.ofBits f))
  | 0x10 => cell4 f (.one .push) (.one .pop) (.one .spsu) (.one .spsl)
  | 0x14 => .one (.retc (Cond.ofBits f))
  | 0x18 => .rel (.bctr (Cond.ofBits f))
  | 0x1C => .branch (.bcta (Cond.ofBits f))
  | 0x20 => .one (.eorz (Reg.ofBits f))
  | 0x24 => .imm (.eori (Reg.ofBits f))
  | 0x28 => .rel (.eorr (Reg.ofBits f))
  | 0x2C => .abs (.eora (Reg.ofBits f))
  | 0x30 => .one (.redc (Reg.ofBits f))
  | 0x34 => .one (.rete (Cond.ofBits f))
  | 0x38 => .rel (.bstr (Cond.ofBits f))
  | 0x3C => .branch (.bsta (Cond.ofBits f))
  | 0x40 => if f = 0#2 then .one .halt else .one (.andz (Reg.ofBits f))
  | 0x44 => .imm (.andi (Reg.ofBits f))
  | 0x48 => .rel (.andr (Reg.ofBits f))
  | 0x4C => .abs (.anda (Reg.ofBits f))
  | 0x50 => .one (.rrr (Reg.ofBits f))
  | 0x54 => .imm (.rede (Reg.ofBits f))
  | 0x58 => .rel (.brnr (Reg.ofBits f))
  | 0x5C => .branch (.brna (Reg.ofBits f))
  | 0x60 => .one (.iorz (Reg.ofBits f))
  | 0x64 => .imm (.iori (Reg.ofBits f))
  | 0x68 => .rel (.iorr (Reg.ofBits f))
  | 0x6C => .abs (.iora (Reg.ofBits f))
  | 0x70 => .one (.redd (Reg.ofBits f))
  | 0x74 => cell4 f (.imm .cpsu) (.imm .cpsl) (.imm .ppsu) (.imm .ppsl)
  | 0x78 => .rel (.bsnr (Reg.ofBits f))
  | 0x7C => .branch (.bsna (Reg.ofBits f))
  | 0x80 => .one (.addz (Reg.ofBits f))
  | 0x84 => .imm (.addi (Reg.ofBits f))
  | 0x88 => .rel (.addr (Reg.ofBits f))
  | 0x8C => .abs (.adda (Reg.ofBits f))
  | 0x90 => cell4 f (.one .mul) (.one .xchg) (.one .lpsu) (.one .lpsl)
  | 0x94 => .one (.dar (Reg.ofBits f))
  | 0x98 => if f = 3#2 then .rel .zbrr else .rel (.bcfr (Cond.ofBits f))
  | 0x9C => if f = 3#2 then .branch .bxa else .branch (.bcfa (Cond.ofBits f))
  | 0xA0 => .one (.subz (Reg.ofBits f))
  | 0xA4 => .imm (.subi (Reg.ofBits f))
  | 0xA8 => .rel (.subr (Reg.ofBits f))
  | 0xAC => .abs (.suba (Reg.ofBits f))
  | 0xB0 => .one (.wrtc (Reg.ofBits f))
  | 0xB4 => cell4 f (.imm .tpsu) (.imm .tpsl) (.one .reserved) (.one .extdPrefix)
  | 0xB8 => if f = 3#2 then .rel .zbsr else .rel (.bsfr (Cond.ofBits f))
  | 0xBC => if f = 3#2 then .branch .bsxa else .branch (.bsfa (Cond.ofBits f))
  | 0xC0 => if f = 0#2 then .one .nop else .one (.strz (Reg.ofBits f))
  | 0xC4 => .one (.clr (Reg.ofBits f))
  | 0xC8 => .rel (.strr (Reg.ofBits f))
  | 0xCC => .abs (.stra (Reg.ofBits f))
  | 0xD0 => .one (.rrl (Reg.ofBits f))
  | 0xD4 => .imm (.wrte (Reg.ofBits f))
  | 0xD8 => .rel (.birr (Reg.ofBits f))
  | 0xDC => .branch (.bira (Reg.ofBits f))
  | 0xE0 => .one (.comz (Reg.ofBits f))
  | 0xE4 => .imm (.comi (Reg.ofBits f))
  | 0xE8 => .rel (.comr (Reg.ofBits f))
  | 0xEC => .abs (.coma (Reg.ofBits f))
  | 0xF0 => .one (.wrtd (Reg.ofBits f))
  | 0xF4 => .imm (.tmi (Reg.ofBits f))
  | 0xF8 => .rel (.bdrr (Reg.ofBits f))
  | _ => .branch (.bdra (Reg.ofBits f))  -- 0xFC, the one row left: b AND FCh is a multiple of 4

/-- The extended map (R121), for the byte after the prefix; a blank cell is reserved (R122). -/
def extEntry (b : Byte) : Entry :=
  let f := b.extractLsb' 0 2
  if b &&& 0xFC#8 = cplBase then .one (.cpl (Reg.ofBits f)) else
  match (b &&& 0xFC#8).toNat with
  | 0x08 => .far (.lodf (Reg.ofBits f))
  | 0x0C => .far (.ldfi (Reg.ofBits f))
  | 0x10 => cell4 f (.one .pshs) (.one .pops) (.one .svb) (.one .chrp)
  | 0x1C => .far (.bctf (Cond.ofBits f))
  | 0x3C => .far (.bstf (Cond.ofBits f))
  | 0x5C => .far (.brnf (Reg.ofBits f))
  | 0x7C => .far (.bsnf (Reg.ofBits f))
  | 0x90 => cell4 f (.one .trap) (.one .clrt) (.one (.reservedExtended b)) (.one (.reservedExtended b))
  | 0x9C => if f = 3#2 then .far .bxf else .far (.bcff (Cond.ofBits f))
  | 0xBC => if f = 3#2 then .far .bsxf else .far (.bsff (Cond.ofBits f))
  | 0xC8 => .far (.strf (Reg.ofBits f))
  | 0xCC => .far (.stfi (Reg.ofBits f))
  | 0xDC => .far (.birf (Reg.ofBits f))
  | 0xFC => .far (.bdrf (Reg.ofBits f))
  | _ => .one (.reservedExtended b)

/-- The instruction an entry and the operand bytes after it make, and the bytes left. -/
def Entry.build : Entry → List Byte → Except DecodeRefusal (Instr × List Byte)
  | .one i, rest => .ok (i, rest)
  | .imm f, b :: rest => .ok (f b, rest)
  | .rel f, b :: rest => .ok (f (RelOperand.ofByte b), rest)
  | .abs f, b1 :: b2 :: rest => .ok (f (AbsOperand.ofBytes b1 b2), rest)
  | .branch f, b1 :: b2 :: rest => .ok (f (BranchOperand.ofBytes b1 b2), rest)
  | .far f, b1 :: b2 :: rest => .ok (f (farAddress b1 b2), rest)
  | .imm _, [] => .error .truncated
  | .rel _, [] => .error .truncated
  | .abs _, [] => .error .truncated
  | .abs _, [_] => .error .truncated
  | .branch _, [] => .error .truncated
  | .branch _, [_] => .error .truncated
  | .far _, [] => .error .truncated
  | .far _, [_] => .error .truncated

/-- Reads one instruction from the bytes at its address, first byte first, and returns the bytes after it (R100, R109).
A list that is the prefix byte alone is the table's prefix row, `extdPrefix`. -/
def decode : List Byte → Except DecodeRefusal (Instr × List Byte)
  | [] => .error .truncated
  | b0 :: rest =>
    if b0 = extPrefix then
      match rest with
      | [] => .ok (.extdPrefix, [])
      | b1 :: rest => (extEntry b1).build rest
    else (baseEntry b0).build rest

/-- The bytes of an instruction, first byte in memory first (R100 to R109, R120, R121). -/
def encode : Instr → List Byte
  | .lodz r => [0x00#8 ||| r.field]
  | .lodi r imm => [0x04#8 ||| r.field, imm]
  | .lodr r op => [0x08#8 ||| r.field, op.toByte]
  | .loda r op => [0x0C#8 ||| r.field, op.highByte, op.lowByte]
  | .eorz r => [0x20#8 ||| r.field]
  | .eori r imm => [0x24#8 ||| r.field, imm]
  | .eorr r op => [0x28#8 ||| r.field, op.toByte]
  | .eora r op => [0x2C#8 ||| r.field, op.highByte, op.lowByte]
  | .andz r => [0x40#8 ||| r.field]
  | .andi r imm => [0x44#8 ||| r.field, imm]
  | .andr r op => [0x48#8 ||| r.field, op.toByte]
  | .anda r op => [0x4C#8 ||| r.field, op.highByte, op.lowByte]
  | .iorz r => [0x60#8 ||| r.field]
  | .iori r imm => [0x64#8 ||| r.field, imm]
  | .iorr r op => [0x68#8 ||| r.field, op.toByte]
  | .iora r op => [0x6C#8 ||| r.field, op.highByte, op.lowByte]
  | .addz r => [0x80#8 ||| r.field]
  | .addi r imm => [0x84#8 ||| r.field, imm]
  | .addr r op => [0x88#8 ||| r.field, op.toByte]
  | .adda r op => [0x8C#8 ||| r.field, op.highByte, op.lowByte]
  | .subz r => [0xA0#8 ||| r.field]
  | .subi r imm => [0xA4#8 ||| r.field, imm]
  | .subr r op => [0xA8#8 ||| r.field, op.toByte]
  | .suba r op => [0xAC#8 ||| r.field, op.highByte, op.lowByte]
  | .strz r => [0xC0#8 ||| r.field]
  | .strr r op => [0xC8#8 ||| r.field, op.toByte]
  | .stra r op => [0xCC#8 ||| r.field, op.highByte, op.lowByte]
  | .comz r => [0xE0#8 ||| r.field]
  | .comi r imm => [0xE4#8 ||| r.field, imm]
  | .comr r op => [0xE8#8 ||| r.field, op.toByte]
  | .coma r op => [0xEC#8 ||| r.field, op.highByte, op.lowByte]
  | .bctr m op => [0x18#8 ||| m.field, op.toByte]
  | .bcta m op => [0x1C#8 ||| m.field, op.highByte, op.lowByte]
  | .bstr m op => [0x38#8 ||| m.field, op.toByte]
  | .bsta m op => [0x3C#8 ||| m.field, op.highByte, op.lowByte]
  | .brnr r op => [0x58#8 ||| r.field, op.toByte]
  | .brna r op => [0x5C#8 ||| r.field, op.highByte, op.lowByte]
  | .bsnr r op => [0x78#8 ||| r.field, op.toByte]
  | .bsna r op => [0x7C#8 ||| r.field, op.highByte, op.lowByte]
  | .bcfr m op => [0x98#8 ||| m.field, op.toByte]
  | .bcfa m op => [0x9C#8 ||| m.field, op.highByte, op.lowByte]
  | .bsfr m op => [0xB8#8 ||| m.field, op.toByte]
  | .bsfa m op => [0xBC#8 ||| m.field, op.highByte, op.lowByte]
  | .birr r op => [0xD8#8 ||| r.field, op.toByte]
  | .bira r op => [0xDC#8 ||| r.field, op.highByte, op.lowByte]
  | .bdrr r op => [0xF8#8 ||| r.field, op.toByte]
  | .bdra r op => [0xFC#8 ||| r.field, op.highByte, op.lowByte]
  | .retc m => [0x14#8 ||| m.field]
  | .rete m => [0x34#8 ||| m.field]
  | .rrr r => [0x50#8 ||| r.field]
  | .rrl r => [0xD0#8 ||| r.field]
  | .dar r => [0x94#8 ||| r.field]
  | .wrtc r => [0xB0#8 ||| r.field]
  | .wrtd r => [0xF0#8 ||| r.field]
  | .redc r => [0x30#8 ||| r.field]
  | .redd r => [0x70#8 ||| r.field]
  | .wrte r a => [0xD4#8 ||| r.field, a]
  | .rede r a => [0x54#8 ||| r.field, a]
  | .spsu => [0x12#8]
  | .spsl => [0x13#8]
  | .lpsu => [0x92#8]
  | .lpsl => [0x93#8]
  | .halt => [0x40#8]
  | .cpsu mask => [0x74#8, mask]
  | .cpsl mask => [0x75#8, mask]
  | .ppsu mask => [0x76#8, mask]
  | .ppsl mask => [0x77#8, mask]
  | .tpsu mask => [0xB4#8, mask]
  | .tpsl mask => [0xB5#8, mask]
  | .nop => [0xC0#8]
  | .tmi r mask => [0xF4#8 ||| r.field, mask]
  | .zbrr op => [0x9B#8, op.toByte]
  | .zbsr op => [0xBB#8, op.toByte]
  | .bxa op => [0x9F#8, op.highByte, op.lowByte]
  | .bsxa op => [0xBF#8, op.highByte, op.lowByte]
  | .push => [0x10#8]
  | .pop => [0x11#8]
  | .mul => [0x90#8]
  | .xchg => [0x91#8]
  | .clr r => [0xC4#8 ||| r.field]
  | .trap => [extPrefix, 0x90#8]
  | .clrt => [extPrefix, 0x91#8]
  | .cpl r => [extPrefix, cplBase ||| r.field]
  | .pshs => [extPrefix, 0x10#8]
  | .pops => [extPrefix, 0x11#8]
  | .svb => [extPrefix, 0x12#8]
  | .chrp => [extPrefix, 0x13#8]
  | .lodf r a => [extPrefix, 0x08#8 ||| r.field, farHigh a, farLow a]
  | .ldfi r a => [extPrefix, 0x0C#8 ||| r.field, farHigh a, farLow a]
  | .strf r a => [extPrefix, 0xC8#8 ||| r.field, farHigh a, farLow a]
  | .stfi r a => [extPrefix, 0xCC#8 ||| r.field, farHigh a, farLow a]
  | .bctf m a => [extPrefix, 0x1C#8 ||| m.field, farHigh a, farLow a]
  | .bstf m a => [extPrefix, 0x3C#8 ||| m.field, farHigh a, farLow a]
  | .brnf r a => [extPrefix, 0x5C#8 ||| r.field, farHigh a, farLow a]
  | .bsnf r a => [extPrefix, 0x7C#8 ||| r.field, farHigh a, farLow a]
  | .bcff m a => [extPrefix, 0x9C#8 ||| m.field, farHigh a, farLow a]
  | .bsff m a => [extPrefix, 0xBC#8 ||| m.field, farHigh a, farLow a]
  | .birf r a => [extPrefix, 0xDC#8 ||| r.field, farHigh a, farLow a]
  | .bdrf r a => [extPrefix, 0xFC#8 ||| r.field, farHigh a, farLow a]
  | .bxf a => [extPrefix, 0x9F#8, farHigh a, farLow a]
  | .bsxf a => [extPrefix, 0xBF#8, farHigh a, farLow a]
  | .extdPrefix => [extPrefix]
  | .reserved => [0xB6#8]
  | .reservedExtended op => [extPrefix, op]

/-- The bytes of an instruction given as a number with `nbits` bits, as spec/opcode_table.json numbers them: the first byte
is bits 7:0 and a later byte's bits count on from it; but in the table's 16-bit rows, which are the prefixed ones, the
prefix B7h stands in bits 15:8 and the opcode byte in bits 7:0. Log 35. -/
def tableBytes (nbits w : Nat) : List Byte :=
  if nbits = 16 && BitVec.ofNat 8 (w / 256) = extPrefix then [extPrefix, BitVec.ofNat 8 w]
  else (List.range ((nbits + 7) / 8)).map fun k => BitVec.ofNat 8 (w / 256 ^ k)

/-- The four bytes of the longest instruction, the bytes above `nbits` zero. -/
def tableFetchBytes (nbits w : Nat) : List Byte := (tableBytes nbits w ++ [0#8, 0#8, 0#8, 0#8]).take 4

/-- The instruction the decoder reads from the bits `w` of a row of the opcode table. An operand byte the table gives no
bits is 0. -/
def decodeTableWord (nbits w : Nat) : Option Instr :=
  match decode (tableBytes nbits w) with
  | .ok (i, _) => some i
  | .error _ =>
    match decode (tableFetchBytes nbits w) with
    | .ok (i, _) => some i
    | .error _ => none

end Sys2Proof
end

