-- ==== Sys2Proof/Machine/State.lean ====
section
/-! DEFINITION. The state of the AS2650-2 (spec/10_state.md R20 to R46), as plain data, and the machine after reset. -/

namespace Sys2Proof.Machine

/-- Why a step stops with a fault: never. The hardware has no synchronous exception (R300), so there is no constructor,
nobody raises one, and that is safe. -/
inductive Fault where
deriving DecidableEq, Repr

/-- Why a step refuses to go on. -/
inductive Refusal where
  /-- Raised by an arm of `exec` whose instruction has no meaning yet; no arm is left that does. Safe: nothing can be
  proved of what follows. -/
  | notModelled (mnemonic : String)
  /-- Raised by `chrp` (R272), by B6h and by the blank cells of the extended map (R122, D17), with the bytes. Safe: the
  source gives these bytes no behaviour, so the model gives no state after them. -/
  | reservedOpcode (bytes : List Byte)
  /-- Raised by the opcode table's row for the prefix byte B7h, which is not an instruction by itself (R109). No step
  raises it: memory always holds a byte after the prefix. Safe. -/
  | prefixAlone
deriving DecidableEq, Repr

/-- A transaction with the world outside the core: an I/O read or write with its space, address and value (R226), a store
handed to a memory-mapped device (R65), or a read of one, which may have a side effect there (R76). -/
inductive Transaction where
  | ioRead (port : IoPort) (v : Byte)
  | ioWrite (port : IoPort) (v : Byte)
  | deviceWrite (a : Word) (v : Byte)
  | deviceRead (a : Word) (v : Byte)
deriving DecidableEq, Repr

/-- The machine's state: R20's table, the memory, and what the platform holds. -/
structure State where
  /-- R0, the accumulator, in both banks (R21). -/
  r0 : Byte
  /-- R1, R2, R3: the bank PSL.RS = 0 selects (R21). -/
  r1 : Byte
  r2 : Byte
  r3 : Byte
  /-- R1', R2', R3': the bank PSL.RS = 1 selects (R21). -/
  r1b : Byte
  r2b : Byte
  r3b : Byte
  /-- The internal stack S[0] to S[15] (R23). -/
  stack : Vector Word 16
  /-- The Instruction Pointer: Page Control in bits 15:13, Program Counter in bits 12:0 (R24). -/
  ip : Word
  /-- Program Status Upper (R27); its bit 7 has no storage and is kept 0 here (R31). -/
  psu : Byte
  /-- Program Status Lower (R33). -/
  psl : Byte
  /-- Interrupt Vector Base (R42). -/
  ivb : Word
  /-- The trap-pending flag TRAPP (R43). -/
  trapp : Bool
  /-- The halt state HALTED (R44). -/
  halted : Bool
  /-- The sources of the platform whose pending flag is set (R45, R301); only the platform changes it. -/
  irqPending : List Nat
  /-- The memory bytes written since reset, in the canonical form `Memory.wf` (R60, R65). -/
  mem : List Host.Cell
  /-- The platform's memory map (R65); no step changes it. -/
  memMap : List Region
  /-- The transactions so far, oldest first (R76, R226, D30). The model's own record. -/
  trace : List Transaction
  /-- How many instructions have been executed: what the free values are applied to. The model's own counter, log 10. -/
  draws : Nat
deriving DecidableEq, Repr

/-- The machine right after reset (R46, R340): PSU = 20h, PSL = 00h, HALTED = 0, IP = RESET_IP. The spec gives no other
value; the zeros are the model's (log 1 to 4), as are an empty pending list, a map that is all RAM (log 8) and the
model's own fields. -/
def State.reset : State where
  r0 := 0x00#8
  r1 := 0x00#8
  r2 := 0x00#8
  r3 := 0x00#8
  r1b := 0x00#8
  r2b := 0x00#8
  r3b := 0x00#8
  stack := Vector.replicate 16 0x0000#16
  ip := Config.resetIp
  psu := 0x20#8
  psl := 0x00#8
  ivb := 0x0000#16
  trapp := false
  halted := false
  irqPending := []
  mem := []
  memMap := [⟨0, 65536, .ram⟩]
  trace := []
  draws := 0

/-- What exec and a step answer. -/
abbrev Result := Host.Outcome State Fault Refusal

end Sys2Proof.Machine
end

