-- ==== Sys2Proof/Machine/Flags.lean ====
section
/-! DEFINITION. The fields of PSU and PSL (spec/10_state.md R27, R33) and every flag computation of the spec (R40, R141 to
R143, R210 to R212, R239, R262). -/

namespace Sys2Proof.Machine

/-! ## Fields of the status bytes -/

/-- The byte `b` with bit `k` set to `v`. -/
def withBit (b : Byte) (k : Nat) (v : Bool) : Byte :=
  if v then b ||| (1#8 <<< k) else b &&& ~~~(1#8 <<< k)

/-- PSL.C, bit 0 (R34). -/
def State.carry (s : State) : Bool := s.psl.getLsbD 0

/-- PSL.COM, bit 1 (R35): set for unsigned compares. -/
def State.com (s : State) : Bool := s.psl.getLsbD 1

/-- PSL.OVF, bit 2 (R36). -/
def State.ovf (s : State) : Bool := s.psl.getLsbD 2

/-- PSL.WC, bit 3 (R37). -/
def State.wc (s : State) : Bool := s.psl.getLsbD 3

/-- PSL.RS, bit 4 (R38): the register bank. PRESUMED by the spec from the 2650, log 23. -/
def State.rs (s : State) : Bool := s.psl.getLsbD 4

/-- PSL.IDC, bit 5 (R39). -/
def State.idc (s : State) : Bool := s.psl.getLsbD 5

/-- PSL.CC, bits 7:6 (R40). -/
def State.cc (s : State) : BitVec 2 := s.psl.extractLsb' 6 2

def State.setPsl (v : Byte) (s : State) : State := { s with psl := v }

def State.setCarry (v : Bool) (s : State) : State := { s with psl := withBit s.psl 0 v }

def State.setOvf (v : Bool) (s : State) : State := { s with psl := withBit s.psl 2 v }

def State.setIdc (v : Bool) (s : State) : State := { s with psl := withBit s.psl 5 v }

def State.setCC (c : BitVec 2) (s : State) : State := { s with psl := c ++ s.psl.extractLsb' 0 6 }

/-- PSU.SP, bits 3:0 (R28): the index of the next free stack entry. -/
def State.sp (s : State) : BitVec 4 := s.psu.extractLsb' 0 4

/-- PSU.II, bit 5 (R29): interrupts are inhibited. -/
def State.ii (s : State) : Bool := s.psu.getLsbD 5

/-- PSU.F, bit 6, which is the level of the Flag output line at all times (R30, D28). -/
def State.flagOut (s : State) : Bool := s.psu.getLsbD 6

/-- A write of PSU: bits 6:0 are stored, bit 7 has no storage (R31, D12). -/
def State.setPsu (v : Byte) (s : State) : State := { s with psu := v &&& 0x7F#8 }

def State.setSp (n : BitVec 4) (s : State) : State := { s with psu := s.psu.extractLsb' 4 4 ++ n }

def State.setII (v : Bool) (s : State) : State := { s with psu := withBit s.psu 5 v }

/-- A read of PSU: bit 7 is the level of the Sense input at this instruction, bits 6:0 are stored (R31). Log 11. -/
def State.psuRead (s : State) : Byte := BitVec.ofBool (Config.senseLevel s.draws) ++ s.psu.extractLsb' 0 7

/-! ## The Condition Code -/

/-- Table 6 (R40): 00 zero, 10 negative, 01 positive. -/
def ccOf (v : Byte) : BitVec 2 :=
  if v = 0#8 then 0#2 else if v.getLsbD 7 then 2#2 else 1#2

/-- SetCC (R40). -/
def State.setCCFor (v : Byte) (s : State) : State := s.setCC (ccOf v)

/-- The Condition Code of a 16-bit product (R262, D18): the sign is bit 15. Log 29. -/
def ccOf16 (p : Word) : BitVec 2 :=
  if p = 0#16 then 0#2 else if p.getLsbD 15 then 2#2 else 1#2

/-- Compare (R143): signed when COM = 0, unsigned when COM = 1; 01 greater, 00 equal, 10 less. -/
def compareCC (com : Bool) (p q : Byte) : BitVec 2 :=
  let p' : Int := if com then p.toNat else p.toInt
  let q' : Int := if com then q.toNat else q.toInt
  if p' > q' then 1#2 else if p' = q' then 0#2 else 2#2

/-- The tests under mask (R239, R240, R242): 00 if all selected bits are one, else 10. -/
def testCC (v m : Byte) : BitVec 2 :=
  if v &&& m = m then 0#2 else 2#2

/-! ## The parameter ROT_OVF -/

/-- ROT_OVF (R6, R210): C9 settles it as unchanged; the other reading is written out too. Log 22. -/
def rotOvf : RotOvf := .unchanged

/-- What a rotate with WC = 1 does to OVF under each reading (R210, R211, D25). -/
def State.rotateOvf (mode : RotOvf) (s : State) : State :=
  match mode with
  | .unchanged => s
  | .changed => s.setOvf (Config.rotateOvf s.draws)

/-! ## Addition and subtraction -/

/-- What an addition or subtraction gives: the value and the three flags it writes (R141, R142). -/
structure AluResult where
  value : Byte
  c : Bool
  idc : Bool
  ovf : Bool
deriving DecidableEq, Repr

/-- The sum of two bytes and a carry, taken exactly and then narrowed (R141). OVF counts the carry-in (D36, log 30). -/
def addCarry (a b : Byte) (cin : Bool) : AluResult :=
  let sum := a.toNat + b.toNat + cin.toNat
  let res := BitVec.ofNat 8 sum
  { value := res
    c := sum.testBit 8
    idc := decide (a.toNat % 16 + b.toNat % 16 + cin.toNat > 15)
    ovf := decide (a.getLsbD 7 = b.getLsbD 7 ∧ res.getLsbD 7 ≠ a.getLsbD 7) }

/-- Add8 (R141): the carry goes in only when WC = 1. -/
def State.add8 (s : State) (a b : Byte) : AluResult := addCarry a b (s.wc && s.carry)

/-- Sub8 (R142): the complement of the subtrahend is added, with one (WC = 0) or the carry (WC = 1). -/
def State.sub8 (s : State) (a b : Byte) : AluResult := addCarry a (~~~b) (if s.wc then s.carry else true)

/-- Writes C, IDC and OVF, set or cleared (R141, R142). -/
def State.setArith (r : AluResult) (s : State) : State := ((s.setCarry r.c).setIdc r.idc).setOvf r.ovf

/-! ## Rotates and decimal adjust -/

/-- The value of `rrr` (R210): around 8 bits, or through the carry when WC = 1. -/
def rotateRight (wc c : Bool) (v : Byte) : Byte :=
  BitVec.ofBool (if wc then c else v.getLsbD 0) ++ v.extractLsb' 1 7

/-- The value of `rrl` (R211). -/
def rotateLeft (wc c : Bool) (v : Byte) : Byte :=
  v.extractLsb' 0 7 ++ BitVec.ofBool (if wc then c else v.getLsbD 7)

/-- `dar` (R212): 10 is added to the high digit if C = 0 and to the low digit if IDC = 0, each modulo 16 (C12). -/
def decimalAdjust (c idc : Bool) (v : Byte) : Byte :=
  let hi := v.extractLsb' 4 4
  let lo := v.extractLsb' 0 4
  (if c then hi else hi + 10#4) ++ (if idc then lo else lo + 10#4)

end Sys2Proof.Machine
end

