-- ==== Sys2Proof/Machine/Ops.lean ====
section
/-! DEFINITION. The named operations over registers, memory, the internal stack, the Instruction Pointer, I/O, and taking and
returning from an interrupt. Every meaning is written over these. -/

namespace Sys2Proof.Machine

/-! ## General registers (R20 to R22) -/

/-- The seven general registers (R20). -/
inductive PhysReg where
  | r0
  | r1
  | r2
  | r3
  | r1b
  | r2b
  | r3b
deriving DecidableEq, Repr

/-- The register an index selects under a bank select (R21, D21; log 23). -/
def physOf (rs : Bool) : Reg → PhysReg
  | .r0 => .r0
  | .r1 => if rs then .r1b else .r1
  | .r2 => if rs then .r2b else .r2
  | .r3 => if rs then .r3b else .r3

def State.phys (s : State) : PhysReg → Byte
  | .r0 => s.r0
  | .r1 => s.r1
  | .r2 => s.r2
  | .r3 => s.r3
  | .r1b => s.r1b
  | .r2b => s.r2b
  | .r3b => s.r3b

def State.setPhys (p : PhysReg) (v : Byte) (s : State) : State :=
  match p with
  | .r0 => { s with r0 := v }
  | .r1 => { s with r1 := v }
  | .r2 => { s with r2 := v }
  | .r3 => { s with r3 := v }
  | .r1b => { s with r1b := v }
  | .r2b => { s with r2b := v }
  | .r3b => { s with r3b := v }

/-- `x[r]` (R21). -/
def State.reg (s : State) (r : Reg) : Byte := s.phys (physOf s.rs r)

/-- `x[r] <- v` (R21). -/
def State.setReg (r : Reg) (v : Byte) (s : State) : State := s.setPhys (physOf s.rs r) v

/-- Writes a result into a register and sets CC from it (R40). -/
def State.loadReg (r : Reg) (v : Byte) (s : State) : State := (s.setReg r v).setCCFor v

/-- Writes the result of an addition or subtraction: the register, C, IDC, OVF and CC (R141, R142, R160, R164). -/
def State.arithReg (r : Reg) (x : AluResult) (s : State) : State := ((s.setReg r x.value).setArith x).setCCFor x.value

/-! ## Memory (R60, R65) -/

/-- The byte written at an address, if any: an address that is not listed holds no value. -/
def Memory.get? : List Host.Cell → Nat → Option Byte
  | [], _ => none
  | (k, v) :: m, a => if k = a then some v else Memory.get? m a

/-- Writes a byte, keeping the addresses strictly rising. -/
def Memory.put : List Host.Cell → Nat → Byte → List Host.Cell
  | [], a, v => [(a, v)]
  | (k, w) :: m, a, v =>
    if a < k then (a, v) :: (k, w) :: m
    else if a = k then (a, v) :: m
    else (k, w) :: Memory.put m a v

/-- The addresses are above `low`, strictly rising, and inside the 65,536 bytes of R60. -/
def Memory.risingFrom : Nat → List Host.Cell → Bool
  | _, [] => true
  | low, (k, _) :: m => decide (low ≤ k) && decide (k < 65536) && Memory.risingFrom (k + 1) m

/-- The canonical form of memory. An unlisted address holds no value, so no entry can equal what it reads as: equal
contents are equal lists. -/
def Memory.wf (m : List Host.Cell) : Bool := Memory.risingFrom 0 m

/-- What the platform has at an address (R65): the first region that covers it; `none` is unmapped. -/
def State.mapKind (s : State) (a : Word) : Option MapKind :=
  (s.memMap.find? fun r => decide (r.base ≤ a.toNat) && decide (a.toNat < r.base + r.size)).map Region.kind

/-- MemRead (R65): RAM and ROM give the byte last written, and a free value fixed per address where nothing has been
written; an unmapped or device address gives a free value. -/
def State.memRead (s : State) (k : MemAccess) (a : Word) : Byte :=
  match s.mapKind a with
  | some .ram => (Memory.get? s.mem a.toNat).getD (Config.powerOnByte a)
  | some .rom => (Memory.get? s.mem a.toNat).getD (Config.powerOnByte a)
  | some .device => Config.busByte s.draws k a
  | none => Config.busByte s.draws k a

/-- The transaction a read makes (R76): one at a device address, and none anywhere else. -/
def State.memReads (s : State) (k : MemAccess) (a : Word) : List Transaction :=
  match s.mapKind a with
  | some .device => [.deviceRead a (s.memRead k a)]
  | some .ram => []
  | some .rom => []
  | none => []

/-- The byte RAM or ROM holds at an address, whatever the map: what the frame of a store speaks of. -/
def State.byteAt (s : State) (a : Word) : Byte := (Memory.get? s.mem a.toNat).getD (Config.powerOnByte a)

/-- MemWrite (R65): RAM stores the byte, ROM and unmapped addresses ignore it, a device is handed it. -/
def State.memWrite (a : Word) (v : Byte) (s : State) : State :=
  match s.mapKind a with
  | some .ram => { s with mem := Memory.put s.mem a.toNat v }
  | some .rom => s
  | some .device => { s with trace := s.trace ++ [.deviceWrite a v] }
  | none => s

/-- The address after `a` inside its page (R25, R118 kind `page`). -/
def nextInPage (a : Word) : Word := a.extractLsb' 13 3 ++ (a.extractLsb' 0 13 + 1#13)

/-- The address of a pointer's second byte (R118). -/
def pointerSecond (kind : PtrKind) (a : Word) : Word :=
  match kind with
  | .page => nextInPage a
  | .flat => a + 1#16

/-- Ptr16 (R118): two bytes, big-endian. -/
def State.ptr16 (s : State) (kind : PtrKind) (a : Word) : Word :=
  s.memRead .pointerHigh a ++ s.memRead .pointerLow (pointerSecond kind a)

/-- The transactions of a pointer's two reads, in their order (R76, R118). -/
def State.ptr16Reads (s : State) (kind : PtrKind) (a : Word) : List Transaction :=
  s.memReads .pointerHigh a ++ s.memReads .pointerLow (pointerSecond kind a)

/-! ## Instruction Pointer (R24 to R26) -/

/-- Page Control, IP bits 15:13 (R24). -/
def State.page (s : State) : BitVec 3 := s.ip.extractLsb' 13 3

/-- The Program Counter, IP bits 12:0 (R24). -/
def State.pc (s : State) : BitVec 13 := s.ip.extractLsb' 0 13

def State.setIp (a : Word) (s : State) : State := { s with ip := a }

/-! ## Internal stack (R23, R28) -/

/-- S[k]. -/
def State.stackAt (s : State) (k : BitVec 4) : Word := s.stack[k.toNat]'k.isLt

def State.setStack (k : BitVec 4) (v : Word) (s : State) : State :=
  { s with stack := s.stack.set k.toNat v k.isLt }

/-- Push16 (R28): the pointer wraps modulo 16 (D10, log 26). -/
def State.push16 (v : Word) (s : State) : State := (s.setStack s.sp v).setSp (s.sp + 1#4)

/-- What Pop16 returns: the entry below the pointer (R28). -/
def State.topOfStack (s : State) : Word := s.stackAt (s.sp - 1#4)

/-- What Pop16 leaves: the pointer one lower, modulo 16 (R28). -/
def State.dropTop (s : State) : State := s.setSp (s.sp - 1#4)

/-! ## The record of transactions (R76, R226) and I/O (R68) -/

/-- Notes transactions in the record, in their order. No value read and no other field depends on it. -/
def State.record (ts : List Transaction) (s : State) : State := { s with trace := s.trace ++ ts }

/-- The byte an IoRead of this instruction returns: the platform's, free (log 12). -/
def State.ioIn (s : State) (port : IoPort) : Byte := Config.ioByte s.draws port

/-- IoRead: the transaction is recorded with the value returned (R226). -/
def State.ioRead (port : IoPort) (s : State) : State := s.record [.ioRead port (s.ioIn port)]

/-- IoWrite: the value is handed to the host (R226, D30). -/
def State.ioWrite (port : IoPort) (v : Byte) (s : State) : State := s.record [.ioWrite port v]

/-! ## Interrupts (R301 to R312) -/

/-- The sources whose interrupt is requested: the trap while TRAPP = 1 (R302), and the pending ones of the platform. -/
def State.requests (s : State) : List IrqSource :=
  (if s.trapp then [.trap] else []) ++ s.irqPending.map .platform

/-- The priority number of a source; the trap's is 4 (R302). -/
def irqNumberOf : IrqSource → Nat
  | .trap => 4
  | .platform id => Config.irqNumber id

/-- The rank of a source in the order of service (R307). -/
def irqRankOf (src : IrqSource) : Nat := Config.irqRank (irqNumberOf src) src

/-- A number of its own for each source: what orders two sources of one rank. -/
def irqTie : IrqSource → Nat
  | .trap => 0
  | .platform id => id + 1

/-- IRQ_PRIORITY (R307), a total order on the sources: by rank, and two sources of one rank by their own numbers. Log 14. -/
def servedBefore (x y : IrqSource) : Bool :=
  decide (irqRankOf x < irqRankOf y) || (decide (irqRankOf x = irqRankOf y) && decide (irqTie x < irqTie y))

/-- The first to be served of a source and a list of others (R307). -/
def firstServed : IrqSource → List IrqSource → IrqSource
  | best, [] => best
  | best, src :: rest => firstServed (if servedBefore src best then src else best) rest

/-- The interrupt to take at an instruction boundary, if any: II = 0 and some source is pending (R305). Log 16. -/
def State.interruptDue (s : State) : Option IrqSource :=
  if s.ii then none
  else
    match s.requests with
    | [] => none
    | src :: rest => some (firstServed src rest)

/-- The bytes that taking an interrupt reads, in their order (R306, R65). -/
def State.vectorBytes (s : State) (src : IrqSource) : List Byte :=
  (Config.irqVector s.ivb src).zipIdx.map fun p => s.memRead (.vector p.2) p.1

/-- The transactions of those reads (R76, R306). -/
def State.vectorReads (s : State) (src : IrqSource) : List Transaction :=
  (Config.irqVector s.ivb src).zipIdx.flatMap fun p => s.memReads (.vector p.2) p.1

/-- IRQ_TARGET (R306), by the bytes read. -/
def State.irqTarget (s : State) (src : IrqSource) : Word := Config.irqTarget s.ivb src (s.vectorBytes src)

/-- TAKING AN INTERRUPT (R306, D14): make the reads of the target, push the address of the next instruction, set II, clear
HALTED, go to the target. Nothing else changes; in particular TRAPP stays set (R302, D31). -/
def State.enterInterrupt (src : IrqSource) (s : State) : State :=
  { (((s.record (s.vectorReads src)).push16 s.ip).setII true) with
    halted := false
    ip := s.irqTarget src }

/-- RETURNING (R197, R198, R311): pop the Instruction Pointer; `rete` also clears II. -/
def State.returnFrom (clearII : Bool) (s : State) : State :=
  let t := s.dropTop.setIp s.topOfStack
  if clearII then t.setII false else t

/-- What a step adds after an executed instruction: the counter of the free values advances (log 10). -/
def State.tick (s : State) : State := { s with draws := s.draws + 1 }

end Sys2Proof.Machine
end

