-- ==== Sys2Proof/Machine/Operands.lean ====
section
/-! DEFINITION. Every operand form: effective addresses and branch targets (spec/30_encoding.md R112 to R119), the branch
conditions (R127) and the frame of a branch (R180). They are evaluated when IP = NIP. -/

namespace Sys2Proof.Machine

/-- PTR_WRAP for the page-relative modes (R118, D5), log 19. -/
def pagePtrWrap : PtrKind := .page

/-- PTR_WRAP for the far modes (R118, D5), log 19. -/
def farPtrWrap : PtrKind := .flat

/-- FAR_I_MODE (R117): C6 settles it as indirect; the other reading is written out too. Log 20. -/
def farIMode : FarIMode := .indirect

/-- The page address PAGE : offset, in the page of the executing instruction (R112, R114). -/
def State.inPage (s : State) (off : BitVec 13) : Word := s.page ++ off

/-- Follows the indirect bit: the address itself, or the pointer read there (R112, R113, R115). -/
def State.follow (s : State) (ind : Bool) (a : Word) : Word :=
  if ind then s.ptr16 pagePtrWrap a else a

/-- The reads of it: the pointer's, with the indirect bit, and none without (R76). -/
def State.followReads (s : State) (ind : Bool) (a : Word) : List Transaction :=
  if ind then s.ptr16Reads pagePtrWrap a else []

/-- The relative effective address (R112): from NIP, inside the page (D3, D4; log 24, 25). -/
def State.relAddress (s : State) (op : RelOperand) : Word :=
  s.follow op.ind (s.inPage (s.pc + op.disp.signExtend 13))

def State.relReads (s : State) (op : RelOperand) : List Transaction :=
  s.followReads op.ind (s.inPage (s.pc + op.disp.signExtend 13))

/-- The zero-relative effective address (R113): relative to byte 0 of page 0. -/
def State.zeroAddress (s : State) (op : RelOperand) : Word :=
  s.follow op.ind (0#3 ++ op.disp.signExtend 13)

def State.zeroReads (s : State) (op : RelOperand) : List Transaction :=
  s.followReads op.ind (0#3 ++ op.disp.signExtend 13)

/-- The state after the index register's adjustment (R114, R119): modulo 256, no flag. -/
def State.adjustIndex (r : Reg) (ic : IndexControl) (s : State) : State :=
  match ic with
  | .none => s
  | .autoInc => s.setReg r (s.reg r + 1#8)
  | .autoDec => s.setReg r (s.reg r - 1#8)
  | .indexed => s

/-- The register an absolute instruction operates on: R0 when indexed (R114, R119). -/
def dataReg (r : Reg) (ic : IndexControl) : Reg :=
  match ic with
  | .none => r
  | .autoInc => .r0
  | .autoDec => .r0
  | .indexed => .r0

/-- The index added to the address: the register after its adjustment, unsigned (R114, D6), or none. -/
def State.index (s : State) (r : Reg) (ic : IndexControl) : Byte :=
  match ic with
  | .none => 0#8
  | .autoInc => s.reg r
  | .autoDec => s.reg r
  | .indexed => s.reg r

/-- The absolute effective address (R114), in the state after the index register's adjustment: direct inside the page, or
the pointer plus the index. -/
def State.absAddress (s : State) (r : Reg) (op : AbsOperand) : Word :=
  let idx := s.index r op.ic
  if op.ind then s.ptr16 pagePtrWrap (s.inPage op.addr) + idx.setWidth 16
  else s.inPage (op.addr + idx.setWidth 13)

def State.absReads (s : State) (op : AbsOperand) : List Transaction := s.followReads op.ind (s.inPage op.addr)

/-- The 15-bit branch address in the half of memory the instruction is in (R115). -/
def State.inHalf (s : State) (a : BitVec 15) : Word := s.ip.extractLsb' 15 1 ++ a

/-- The absolute branch target (R115). -/
def State.branchAddress (s : State) (op : BranchOperand) : Word := s.follow op.ind (s.inHalf op.addr)

/-- The reads of an absolute branch target, indexed or not (R76, R115, R116). -/
def State.branchReads (s : State) (op : BranchOperand) : List Transaction := s.followReads op.ind (s.inHalf op.addr)

/-- The indexed branch target (R116), by R3 of the current bank (D9, log 25). -/
def State.indexedBranchAddress (s : State) (op : BranchOperand) : Word :=
  let x := s.reg .r3
  if op.ind then s.ptr16 pagePtrWrap (s.inHalf op.addr) + x.setWidth 16
  else s.inHalf (op.addr + x.setWidth 15)

/-- The far indexed branch target (R116, R292). -/
def State.farIndexedAddress (s : State) (a : Word) : Word := a + (s.reg .r3).setWidth 16

/-- The effective address of `ldfi` and `stfi` under each reading (R117). -/
def State.farIAddress (s : State) (mode : FarIMode) (r : Reg) (a : Word) : Word :=
  match mode with
  | .indirect => s.ptr16 farPtrWrap a
  | .indexed => a + (s.reg r).setWidth 16

def State.farIReads (s : State) (mode : FarIMode) (a : Word) : List Transaction :=
  match mode with
  | .indirect => s.ptr16Reads farPtrWrap a
  | .indexed => []

/-- The data register of `ldfi` and `stfi` under each reading (R117). -/
def farIReg (mode : FarIMode) (r : Reg) : Reg :=
  match mode with
  | .indirect => r
  | .indexed => .r0

/-- The second operand of a relative instruction (R140). -/
def State.relByte (s : State) (op : RelOperand) : Byte := s.memRead .data (s.relAddress op)

/-- Its reads: the pointer's, if any, and then the operand's (R76). -/
def State.relByteReads (s : State) (op : RelOperand) : List Transaction :=
  s.relReads op ++ s.memReads .data (s.relAddress op)

/-- The second operand of an absolute instruction (R140), in the state after the index register's adjustment. -/
def State.absByte (s : State) (r : Reg) (op : AbsOperand) : Byte := s.memRead .data (s.absAddress r op)

def State.absByteReads (s : State) (r : Reg) (op : AbsOperand) : List Transaction :=
  s.absReads op ++ s.memReads .data (s.absAddress r op)

/-- CondTrue (R127). -/
def State.condTrue (s : State) (m : Cond) : Bool := m == .un || s.cc == m.bits

/-- CondFalse (R127). -/
def State.condFalse (s : State) (m : Cond) : Bool := s.cc != m.bits

/-- Branch without link (R180): if the condition holds the target's reads are made and IP becomes the target, else nothing
is read and IP stays NIP (R76, D22; log 33). -/
def State.branchIf (cond : Bool) (target : Word) (reads : List Transaction) (s : State) : State :=
  if cond then (s.record reads).setIp target else s

/-- Branch with link (R180): NIP is pushed if, and only if, the branch is taken. -/
def State.callIf (cond : Bool) (target : Word) (reads : List Transaction) (s : State) : State :=
  if cond then ((s.record reads).push16 s.ip).setIp target else s

end Sys2Proof.Machine
end

