-- ==== Sys2Proof/Machine/AluMemory.lean ====
section
/-! DEFINITION. Load, logic, arithmetic, store and compare instructions (spec/40_alu_memory.md). With indexing the
register field names the index register, adjusted first, and R0 is the data register (R114). -/

namespace Sys2Proof.Machine

/-- `lodz` (R144). -/
def execLodz (r : Reg) (s : State) : Result :=
  .next (s.loadReg .r0 (s.reg r))

/-- `lodi` (R145). -/
def execLodi (r : Reg) (imm : Byte) (s : State) : Result :=
  .next (s.loadReg r imm)

/-- `lodr` (R146). -/
def execLodr (r : Reg) (op : RelOperand) (s : State) : Result :=
  .next ((s.record (s.relByteReads op)).loadReg r (s.relByte op))

/-- `loda` (R147). -/
def execLoda (r : Reg) (op : AbsOperand) (s : State) : Result :=
  let t := s.adjustIndex r op.ic
  let d := dataReg r op.ic
  .next ((t.record (t.absByteReads r op)).loadReg d (t.absByte r op))

/-- `eorz` (R148). -/
def execEorz (r : Reg) (s : State) : Result :=
  .next (s.loadReg .r0 (s.reg .r0 ^^^ s.reg r))

/-- `eori` (R149). -/
def execEori (r : Reg) (imm : Byte) (s : State) : Result :=
  .next (s.loadReg r (s.reg r ^^^ imm))

/-- `eorr` (R150). -/
def execEorr (r : Reg) (op : RelOperand) (s : State) : Result :=
  .next ((s.record (s.relByteReads op)).loadReg r (s.reg r ^^^ s.relByte op))

/-- `eora` (R151). -/
def execEora (r : Reg) (op : AbsOperand) (s : State) : Result :=
  let t := s.adjustIndex r op.ic
  let d := dataReg r op.ic
  .next ((t.record (t.absByteReads r op)).loadReg d (t.reg d ^^^ t.absByte r op))

/-- `andz` (R152). -/
def execAndz (r : Reg) (s : State) : Result :=
  .next (s.loadReg .r0 (s.reg .r0 &&& s.reg r))

/-- `andi` (R153). -/
def execAndi (r : Reg) (imm : Byte) (s : State) : Result :=
  .next (s.loadReg r (s.reg r &&& imm))

/-- `andr` (R154). -/
def execAndr (r : Reg) (op : RelOperand) (s : State) : Result :=
  .next ((s.record (s.relByteReads op)).loadReg r (s.reg r &&& s.relByte op))

/-- `anda` (R155). -/
def execAnda (r : Reg) (op : AbsOperand) (s : State) : Result :=
  let t := s.adjustIndex r op.ic
  let d := dataReg r op.ic
  .next ((t.record (t.absByteReads r op)).loadReg d (t.reg d &&& t.absByte r op))

/-- `iorz` (R156). -/
def execIorz (r : Reg) (s : State) : Result :=
  .next (s.loadReg .r0 (s.reg .r0 ||| s.reg r))

/-- `iori` (R157). -/
def execIori (r : Reg) (imm : Byte) (s : State) : Result :=
  .next (s.loadReg r (s.reg r ||| imm))

/-- `iorr` (R158). -/
def execIorr (r : Reg) (op : RelOperand) (s : State) : Result :=
  .next ((s.record (s.relByteReads op)).loadReg r (s.reg r ||| s.relByte op))

/-- `iora` (R159). -/
def execIora (r : Reg) (op : AbsOperand) (s : State) : Result :=
  let t := s.adjustIndex r op.ic
  let d := dataReg r op.ic
  .next ((t.record (t.absByteReads r op)).loadReg d (t.reg d ||| t.absByte r op))

/-- `addz` (R160). -/
def execAddz (r : Reg) (s : State) : Result :=
  .next (s.arithReg .r0 (s.add8 (s.reg .r0) (s.reg r)))

/-- `addi` (R161). -/
def execAddi (r : Reg) (imm : Byte) (s : State) : Result :=
  .next (s.arithReg r (s.add8 (s.reg r) imm))

/-- `addr` (R162). -/
def execAddr (r : Reg) (op : RelOperand) (s : State) : Result :=
  .next ((s.record (s.relByteReads op)).arithReg r (s.add8 (s.reg r) (s.relByte op)))

/-- `adda` (R163). -/
def execAdda (r : Reg) (op : AbsOperand) (s : State) : Result :=
  let t := s.adjustIndex r op.ic
  let d := dataReg r op.ic
  .next ((t.record (t.absByteReads r op)).arithReg d (t.add8 (t.reg d) (t.absByte r op)))

/-- `subz` (R164). -/
def execSubz (r : Reg) (s : State) : Result :=
  .next (s.arithReg .r0 (s.sub8 (s.reg .r0) (s.reg r)))

/-- `subi` (R165). -/
def execSubi (r : Reg) (imm : Byte) (s : State) : Result :=
  .next (s.arithReg r (s.sub8 (s.reg r) imm))

/-- `subr` (R166). -/
def execSubr (r : Reg) (op : RelOperand) (s : State) : Result :=
  .next ((s.record (s.relByteReads op)).arithReg r (s.sub8 (s.reg r) (s.relByte op)))

/-- `suba` (R167). -/
def execSuba (r : Reg) (op : AbsOperand) (s : State) : Result :=
  let t := s.adjustIndex r op.ic
  let d := dataReg r op.ic
  .next ((t.record (t.absByteReads r op)).arithReg d (t.sub8 (t.reg d) (t.absByte r op)))

/-- `strz` (R168). -/
def execStrz (r : Reg) (s : State) : Result :=
  .next (s.loadReg r (s.reg .r0))

/-- `strr` (R169). -/
def execStrr (r : Reg) (op : RelOperand) (s : State) : Result :=
  .next ((s.record (s.relReads op)).memWrite (s.relAddress op) (s.reg r))

/-- `stra` (R170). -/
def execStra (r : Reg) (op : AbsOperand) (s : State) : Result :=
  let t := s.adjustIndex r op.ic
  let d := dataReg r op.ic
  .next ((t.record (t.absReads op)).memWrite (t.absAddress r op) (t.reg d))

/-- `comz` (R171). -/
def execComz (r : Reg) (s : State) : Result :=
  .next (s.setCC (compareCC s.com (s.reg .r0) (s.reg r)))

/-- `comi` (R172). -/
def execComi (r : Reg) (imm : Byte) (s : State) : Result :=
  .next (s.setCC (compareCC s.com (s.reg r) imm))

/-- `comr` (R173). -/
def execComr (r : Reg) (op : RelOperand) (s : State) : Result :=
  .next ((s.record (s.relByteReads op)).setCC (compareCC s.com (s.reg r) (s.relByte op)))

/-- `coma` (R174). -/
def execComa (r : Reg) (op : AbsOperand) (s : State) : Result :=
  let t := s.adjustIndex r op.ic
  let d := dataReg r op.ic
  .next ((t.record (t.absByteReads r op)).setCC (compareCC t.com (t.reg d) (t.absByte r op)))

end Sys2Proof.Machine
end

