-- ==== Sys2Proof/Machine/Branch.lean ====
section
/-! DEFINITION. Branch, subroutine and return instructions (spec/41_branch.md). They run with IP = NIP; an untaken
branch reads no pointer, since its target is not evaluated (R180). -/

namespace Sys2Proof.Machine

/-- `bctr` (R181). -/
def execBctr (m : Cond) (op : RelOperand) (s : State) : Result :=
  .next (s.branchIf (s.condTrue m) (s.relAddress op) (s.relReads op))

/-- `bcta` (R182). -/
def execBcta (m : Cond) (op : BranchOperand) (s : State) : Result :=
  .next (s.branchIf (s.condTrue m) (s.branchAddress op) (s.branchReads op))

/-- `bstr` (R183). -/
def execBstr (m : Cond) (op : RelOperand) (s : State) : Result :=
  .next (s.callIf (s.condTrue m) (s.relAddress op) (s.relReads op))

/-- `bsta` (R184). -/
def execBsta (m : Cond) (op : BranchOperand) (s : State) : Result :=
  .next (s.callIf (s.condTrue m) (s.branchAddress op) (s.branchReads op))

/-- `brnr` (R185). -/
def execBrnr (r : Reg) (op : RelOperand) (s : State) : Result :=
  .next (s.branchIf (s.reg r != 0#8) (s.relAddress op) (s.relReads op))

/-- `brna` (R186). -/
def execBrna (r : Reg) (op : BranchOperand) (s : State) : Result :=
  .next (s.branchIf (s.reg r != 0#8) (s.branchAddress op) (s.branchReads op))

/-- `bsnr` (R187). -/
def execBsnr (r : Reg) (op : RelOperand) (s : State) : Result :=
  .next (s.callIf (s.reg r != 0#8) (s.relAddress op) (s.relReads op))

/-- `bsna` (R188). -/
def execBsna (r : Reg) (op : BranchOperand) (s : State) : Result :=
  .next (s.callIf (s.reg r != 0#8) (s.branchAddress op) (s.branchReads op))

/-- `bcfr` (R189). -/
def execBcfr (m : Cond) (op : RelOperand) (s : State) : Result :=
  .next (s.branchIf (s.condFalse m) (s.relAddress op) (s.relReads op))

/-- `bcfa` (R190). -/
def execBcfa (m : Cond) (op : BranchOperand) (s : State) : Result :=
  .next (s.branchIf (s.condFalse m) (s.branchAddress op) (s.branchReads op))

/-- `bsfr` (R191). -/
def execBsfr (m : Cond) (op : RelOperand) (s : State) : Result :=
  .next (s.callIf (s.condFalse m) (s.relAddress op) (s.relReads op))

/-- `bsfa` (R192). -/
def execBsfa (m : Cond) (op : BranchOperand) (s : State) : Result :=
  .next (s.callIf (s.condFalse m) (s.branchAddress op) (s.branchReads op))

/-- `birr` (R193). -/
def execBirr (r : Reg) (op : RelOperand) (s : State) : Result :=
  let t := s.setReg r (s.reg r + 1#8)
  .next (t.branchIf (t.reg r != 0#8) (t.relAddress op) (t.relReads op))

/-- `bira` (R194). -/
def execBira (r : Reg) (op : BranchOperand) (s : State) : Result :=
  let t := s.setReg r (s.reg r + 1#8)
  .next (t.branchIf (t.reg r != 0#8) (t.branchAddress op) (t.branchReads op))

/-- `bdrr` (R195). -/
def execBdrr (r : Reg) (op : RelOperand) (s : State) : Result :=
  let t := s.setReg r (s.reg r - 1#8)
  .next (t.branchIf (t.reg r != 0#8) (t.relAddress op) (t.relReads op))

/-- `bdra` (R196). -/
def execBdra (r : Reg) (op : BranchOperand) (s : State) : Result :=
  let t := s.setReg r (s.reg r - 1#8)
  .next (t.branchIf (t.reg r != 0#8) (t.branchAddress op) (t.branchReads op))

/-- `retc` (R197). -/
def execRetc (m : Cond) (s : State) : Result :=
  .next (if s.condTrue m then s.returnFrom false else s)

/-- `rete` (R198). -/
def execRete (m : Cond) (s : State) : Result :=
  .next (if s.condTrue m then s.returnFrom true else s)

end Sys2Proof.Machine
end

