-- ==== Sys2Proof/Machine/Extended.lean ====
section
/-! DEFINITION. Extended instructions other than far addressing (spec/46_extended_misc.md), and the rows of the opcode table
that are not instructions (spec/30_encoding.md R109, R122). -/

namespace Sys2Proof.Machine

/-- `push` (R260). -/
def execPush (s : State) : Result :=
  .next (s.push16 (s.reg .r1 ++ s.reg .r0))

/-- `pop` (R261). -/
def execPop (s : State) : Result :=
  let v := s.topOfStack
  .next ((s.dropTop.setReg .r0 (v.extractLsb' 0 8)).setReg .r1 (v.extractLsb' 8 8))

/-- `mul` (R262). -/
def execMul (s : State) : Result :=
  let p := BitVec.ofNat 16 ((s.reg .r0).toNat * (s.reg .r1).toNat)
  .next (((s.setReg .r0 (p.extractLsb' 0 8)).setReg .r1 (p.extractLsb' 8 8)).setCC (ccOf16 p))

/-- `xchg` (R263). -/
def execXchg (s : State) : Result :=
  .next ((s.setReg .r0 (s.reg .r1)).setReg .r1 (s.reg .r0))

/-- `clr` (R264). -/
def execClr (r : Reg) (s : State) : Result :=
  .next (s.setReg r 0x00#8)

/-- `trap` (R265). -/
def execTrap (s : State) : Result :=
  .next { s with trapp := true }

/-- `clrt` (R266). -/
def execClrt (s : State) : Result :=
  .next { s with trapp := false }

/-- `cpl` (R267). -/
def execCpl (r : Reg) (s : State) : Result :=
  .next (s.setReg r (~~~(s.reg r)))

/-- `pshs` (R268). -/
def execPshs (s : State) : Result :=
  .next (s.push16 (s.psuRead ++ s.psl))

/-- `pops` (R269). -/
def execPops (s : State) : Result :=
  let v := s.topOfStack
  .next ((s.dropTop.setPsu (v.extractLsb' 8 8)).setPsl (v.extractLsb' 0 8))

/-- `svb` (R271). -/
def execSvb (s : State) : Result :=
  .next { s with ivb := (s.reg .r1 ++ (s.reg .r0).extractLsb' 4 4) ++ 0#4 }

/-- `chrp` (R272: reserved, its effect is unknown). -/
def execChrp (_s : State) : Result :=
  .refused (.reservedOpcode [extPrefix, 0x13#8])

/-- `reserved` (R122: B6h, the blank cell of the base map). -/
def execReserved (_s : State) : Result :=
  .refused (.reservedOpcode [0xB6#8])

/-- `reservedExtended` (R122: a blank cell of the extended map). -/
def execReservedExtended (op : Byte) (_s : State) : Result :=
  .refused (.reservedOpcode [extPrefix, op])

/-- `extdPrefix` (R109: the prefix byte is not an instruction by itself). -/
def execExtdPrefix (_s : State) : Result :=
  .refused .prefixAlone

end Sys2Proof.Machine
end

