-- ==== Sys2Proof/Machine/Far.lean ====
section
/-! DEFINITION. Far-addressed instructions (spec/47_far.md). No store and no branch changes a flag (C7). -/

namespace Sys2Proof.Machine

/-- `lodf` (R280). -/
def execLodf (r : Reg) (a : Word) (s : State) : Result :=
  .next ((s.record (s.memReads .data a)).loadReg r (s.memRead .data a))

/-- `ldfi` (R281). -/
def execLdfi (r : Reg) (a : Word) (s : State) : Result :=
  let ea := s.farIAddress farIMode r a
  .next ((s.record (s.farIReads farIMode a ++ s.memReads .data ea)).loadReg (farIReg farIMode r) (s.memRead .data ea))

/-- `strf` (R282). -/
def execStrf (r : Reg) (a : Word) (s : State) : Result :=
  .next (s.memWrite a (s.reg r))

/-- `stfi` (R283). -/
def execStfi (r : Reg) (a : Word) (s : State) : Result :=
  .next ((s.record (s.farIReads farIMode a)).memWrite (s.farIAddress farIMode r a) (s.reg (farIReg farIMode r)))

/-- `bctf` (R284). -/
def execBctf (m : Cond) (a : Word) (s : State) : Result :=
  .next (s.branchIf (s.condTrue m) a [])

/-- `bstf` (R285). -/
def execBstf (m : Cond) (a : Word) (s : State) : Result :=
  .next (s.callIf (s.condTrue m) a [])

/-- `brnf` (R286). -/
def execBrnf (r : Reg) (a : Word) (s : State) : Result :=
  .next (s.branchIf (s.reg r != 0#8) a [])

/-- `bsnf` (R287). -/
def execBsnf (r : Reg) (a : Word) (s : State) : Result :=
  .next (s.callIf (s.reg r != 0#8) a [])

/-- `bcff` (R288). -/
def execBcff (m : Cond) (a : Word) (s : State) : Result :=
  .next (s.branchIf (s.condFalse m) a [])

/-- `bsff` (R289). -/
def execBsff (m : Cond) (a : Word) (s : State) : Result :=
  .next (s.callIf (s.condFalse m) a [])

/-- `birf` (R290). -/
def execBirf (r : Reg) (a : Word) (s : State) : Result :=
  let t := s.setReg r (s.reg r + 1#8)
  .next (t.branchIf (t.reg r != 0#8) a [])

/-- `bdrf` (R291). -/
def execBdrf (r : Reg) (a : Word) (s : State) : Result :=
  let t := s.setReg r (s.reg r - 1#8)
  .next (t.branchIf (t.reg r != 0#8) a [])

/-- `bxf` (R292). -/
def execBxf (a : Word) (s : State) : Result :=
  .next (s.branchIf true (s.farIndexedAddress a) [])

/-- `bsxf` (R293). -/
def execBsxf (a : Word) (s : State) : Result :=
  .next (s.callIf true (s.farIndexedAddress a) [])

end Sys2Proof.Machine
end

