-- ==== Sys2Proof/Machine/Io.lean ====
section
/-! DEFINITION. Input/output instructions (spec/43_io.md): exactly one transaction each (R226). -/

namespace Sys2Proof.Machine

/-- `wrtc` (R220). -/
def execWrtc (r : Reg) (s : State) : Result :=
  .next (s.ioWrite .ctrl (s.reg r))

/-- `wrtd` (R221). -/
def execWrtd (r : Reg) (s : State) : Result :=
  .next (s.ioWrite .data (s.reg r))

/-- `redc` (R222). -/
def execRedc (r : Reg) (s : State) : Result :=
  .next ((s.ioRead .ctrl).loadReg r (s.ioIn .ctrl))

/-- `redd` (R223). -/
def execRedd (r : Reg) (s : State) : Result :=
  .next ((s.ioRead .data).loadReg r (s.ioIn .data))

/-- `wrte` (R224). -/
def execWrte (r : Reg) (a : Byte) (s : State) : Result :=
  .next (s.ioWrite (.ext a) (s.reg r))

/-- `rede` (R225). -/
def execRede (r : Reg) (a : Byte) (s : State) : Result :=
  .next ((s.ioRead (.ext a)).loadReg r (s.ioIn (.ext a)))

end Sys2Proof.Machine
end

