-- ==== Sys2Proof/Machine/RotateDecimal.lean ====
section
/-! DEFINITION. Rotate and decimal-adjust instructions (spec/42_rotate_decimal.md). -/

namespace Sys2Proof.Machine

/-- Writes a rotate's result: the register and CC, and C and IDC when WC = 1; OVF by the parameter ROT_OVF (R210,
R211; C9, log 22). -/
def State.rotateReg (r : Reg) (v : Byte) (c idc : Bool) (s : State) : State :=
  (if s.wc then (((s.setReg r v).setCarry c).setIdc idc).rotateOvf rotOvf else s.setReg r v).setCCFor v

/-- `rrr` (R210). -/
def execRrr (r : Reg) (s : State) : Result :=
  let v := s.reg r
  .next (s.rotateReg r (rotateRight s.wc s.carry v) (v.getLsbD 0) (v.getLsbD 6))

/-- `rrl` (R211). -/
def execRrl (r : Reg) (s : State) : Result :=
  let v := s.reg r
  .next (s.rotateReg r (rotateLeft s.wc s.carry v) (v.getLsbD 7) (v.getLsbD 4))

/-- `dar` (R212). -/
def execDar (r : Reg) (s : State) : Result :=
  .next (s.setReg r (decimalAdjust s.carry s.idc (s.reg r)))

end Sys2Proof.Machine
end

