-- ==== Sys2Proof/Machine/Status.lean ====
section
/-! DEFINITION. Program-status, halt, no-operation and bit-test instructions (spec/44_status.md). -/

namespace Sys2Proof.Machine

/-- `spsu` (R230). -/
def execSpsu (s : State) : Result :=
  .next (s.loadReg .r0 s.psuRead)

/-- `spsl` (R231). -/
def execSpsl (s : State) : Result :=
  .next (s.loadReg .r0 s.psl)

/-- `lpsu` (R232). -/
def execLpsu (s : State) : Result :=
  .next (s.setPsu (s.reg .r0))

/-- `lpsl` (R233). -/
def execLpsl (s : State) : Result :=
  .next (s.setPsl (s.reg .r0))

/-- `halt` (R234). -/
def execHalt (s : State) : Result :=
  .next { s with halted := true }

/-- `cpsu` (R235). -/
def execCpsu (mask : Byte) (s : State) : Result :=
  .next (s.setPsu (s.psu &&& ~~~mask))

/-- `cpsl` (R236). -/
def execCpsl (mask : Byte) (s : State) : Result :=
  .next (s.setPsl (s.psl &&& ~~~mask))

/-- `ppsu` (R237). -/
def execPpsu (mask : Byte) (s : State) : Result :=
  .next (s.setPsu (s.psu ||| mask))

/-- `ppsl` (R238). -/
def execPpsl (mask : Byte) (s : State) : Result :=
  .next (s.setPsl (s.psl ||| mask))

/-- `tpsu` (R239). -/
def execTpsu (mask : Byte) (s : State) : Result :=
  .next (s.setCC (testCC s.psuRead mask))

/-- `tpsl` (R240). -/
def execTpsl (mask : Byte) (s : State) : Result :=
  .next (s.setCC (testCC s.psl mask))

/-- `nop` (R241). -/
def execNop (s : State) : Result :=
  .next s

/-- `tmi` (R242). -/
def execTmi (r : Reg) (mask : Byte) (s : State) : Result :=
  .next (s.setCC (testCC (s.reg r) mask))

end Sys2Proof.Machine
end

