-- ==== Sys2Proof/Machine/ZeroIndexed.lean ====
section
/-! DEFINITION. Zero-relative and indexed branches (spec/45_zero_indexed_branch.md): unconditional, and no flag changes (C3). -/

namespace Sys2Proof.Machine

/-- `zbrr` (R250). -/
def execZbrr (op : RelOperand) (s : State) : Result :=
  .next (s.branchIf true (s.zeroAddress op) (s.zeroReads op))

/-- `zbsr` (R251). -/
def execZbsr (op : RelOperand) (s : State) : Result :=
  .next (s.callIf true (s.zeroAddress op) (s.zeroReads op))

/-- `bxa` (R252). -/
def execBxa (op : BranchOperand) (s : State) : Result :=
  .next (s.branchIf true (s.indexedBranchAddress op) (s.branchReads op))

/-- `bsxa` (R253). -/
def execBsxa (op : BranchOperand) (s : State) : Result :=
  .next (s.callIf true (s.indexedBranchAddress op) (s.branchReads op))

end Sys2Proof.Machine
end

