-- ==== Sys2Proof/Machine/Dispatch.lean ====
section
/-! DEFINITION. Which meaning each instruction has: one arm a constructor. The state is the one after the fetch, with
IP = NIP (spec/30_encoding.md R128). -/

namespace Sys2Proof.Machine

/-- Executes a fetched instruction (R128). -/
def exec (i : Instr) (s : State) : Host.Outcome State Fault Refusal :=
  match i with
  | .lodz r => Sys2Proof.Machine.execLodz r s
  | .lodi r imm => Sys2Proof.Machine.execLodi r imm s
  | .lodr r op => Sys2Proof.Machine.execLodr r op s
  | .loda r op => Sys2Proof.Machine.execLoda r op s
  | .eorz r => Sys2Proof.Machine.execEorz r s
  | .eori r imm => Sys2Proof.Machine.execEori r imm s
  | .eorr r op => Sys2Proof.Machine.execEorr r op s
  | .eora r op => Sys2Proof.Machine.execEora r op s
  | .andz r => Sys2Proof.Machine.execAndz r s
  | .andi r imm => Sys2Proof.Machine.execAndi r imm s
  | .andr r op => Sys2Proof.Machine.execAndr r op s
  | .anda r op => Sys2Proof.Machine.execAnda r op s
  | .iorz r => Sys2Proof.Machine.execIorz r s
  | .iori r imm => Sys2Proof.Machine.execIori r imm s
  | .iorr r op => Sys2Proof.Machine.execIorr r op s
  | .iora r op => Sys2Proof.Machine.execIora r op s
  | .addz r => Sys2Proof.Machine.execAddz r s
  | .addi r imm => Sys2Proof.Machine.execAddi r imm s
  | .addr r op => Sys2Proof.Machine.execAddr r op s
  | .adda r op => Sys2Proof.Machine.execAdda r op s
  | .subz r => Sys2Proof.Machine.execSubz r s
  | .subi r imm => Sys2Proof.Machine.execSubi r imm s
  | .subr r op => Sys2Proof.Machine.execSubr r op s
  | .suba r op => Sys2Proof.Machine.execSuba r op s
  | .strz r => Sys2Proof.Machine.execStrz r s
  | .strr r op => Sys2Proof.Machine.execStrr r op s
  | .stra r op => Sys2Proof.Machine.execStra r op s
  | .comz r => Sys2Proof.Machine.execComz r s
  | .comi r imm => Sys2Proof.Machine.execComi r imm s
  | .comr r op => Sys2Proof.Machine.execComr r op s
  | .coma r op => Sys2Proof.Machine.execComa r op s
  | .bctr m op => Sys2Proof.Machine.execBctr m op s
  | .bcta m op => Sys2Proof.Machine.execBcta m op s
  | .bstr m op => Sys2Proof.Machine.execBstr m op s
  | .bsta m op => Sys2Proof.Machine.execBsta m op s
  | .brnr r op => Sys2Proof.Machine.execBrnr r op s
  | .brna r op => Sys2Proof.Machine.execBrna r op s
  | .bsnr r op => Sys2Proof.Machine.execBsnr r op s
  | .bsna r op => Sys2Proof.Machine.execBsna r op s
  | .bcfr m op => Sys2Proof.Machine.execBcfr m op s
  | .bcfa m op => Sys2Proof.Machine.execBcfa m op s
  | .bsfr m op => Sys2Proof.Machine.execBsfr m op s
  | .bsfa m op => Sys2Proof.Machine.execBsfa m op s
  | .birr r op => Sys2Proof.Machine.execBirr r op s
  | .bira r op => Sys2Proof.Machine.execBira r op s
  | .bdrr r op => Sys2Proof.Machine.execBdrr r op s
  | .bdra r op => Sys2Proof.Machine.execBdra r op s
  | .retc m => Sys2Proof.Machine.execRetc m s
  | .rete m => Sys2Proof.Machine.execRete m s
  | .rrr r => Sys2Proof.Machine.execRrr r s
  | .rrl r => Sys2Proof.Machine.execRrl r s
  | .dar r => Sys2Proof.Machine.execDar r s
  | .wrtc r => Sys2Proof.Machine.execWrtc r s
  | .wrtd r => Sys2Proof.Machine.execWrtd r s
  | .redc r => Sys2Proof.Machine.execRedc r s
  | .redd r => Sys2Proof.Machine.execRedd r s
  | .wrte r a => Sys2Proof.Machine.execWrte r a s
  | .rede r a => Sys2Proof.Machine.execRede r a s
  | .spsu => Sys2Proof.Machine.execSpsu s
  | .spsl => Sys2Proof.Machine.execSpsl s
  | .lpsu => Sys2Proof.Machine.execLpsu s
  | .lpsl => Sys2Proof.Machine.execLpsl s
  | .halt => Sys2Proof.Machine.execHalt s
  | .cpsu mask => Sys2Proof.Machine.execCpsu mask s
  | .cpsl mask => Sys2Proof.Machine.execCpsl mask s
  | .ppsu mask => Sys2Proof.Machine.execPpsu mask s
  | .ppsl mask => Sys2Proof.Machine.execPpsl mask s
  | .tpsu mask => Sys2Proof.Machine.execTpsu mask s
  | .tpsl mask => Sys2Proof.Machine.execTpsl mask s
  | .nop => Sys2Proof.Machine.execNop s
  | .tmi r mask => Sys2Proof.Machine.execTmi r mask s
  | .zbrr op => Sys2Proof.Machine.execZbrr op s
  | .zbsr op => Sys2Proof.Machine.execZbsr op s
  | .bxa op => Sys2Proof.Machine.execBxa op s
  | .bsxa op => Sys2Proof.Machine.execBsxa op s
  | .push => Sys2Proof.Machine.execPush s
  | .pop => Sys2Proof.Machine.execPop s
  | .mul => Sys2Proof.Machine.execMul s
  | .xchg => Sys2Proof.Machine.execXchg s
  | .clr r => Sys2Proof.Machine.execClr r s
  | .trap => Sys2Proof.Machine.execTrap s
  | .clrt => Sys2Proof.Machine.execClrt s
  | .cpl r => Sys2Proof.Machine.execCpl r s
  | .pshs => Sys2Proof.Machine.execPshs s
  | .pops => Sys2Proof.Machine.execPops s
  | .svb => Sys2Proof.Machine.execSvb s
  | .chrp => Sys2Proof.Machine.execChrp s
  | .lodf r a => Sys2Proof.Machine.execLodf r a s
  | .ldfi r a => Sys2Proof.Machine.execLdfi r a s
  | .strf r a => Sys2Proof.Machine.execStrf r a s
  | .stfi r a => Sys2Proof.Machine.execStfi r a s
  | .bctf m a => Sys2Proof.Machine.execBctf m a s
  | .bstf m a => Sys2Proof.Machine.execBstf m a s
  | .brnf r a => Sys2Proof.Machine.execBrnf r a s
  | .bsnf r a => Sys2Proof.Machine.execBsnf r a s
  | .bcff m a => Sys2Proof.Machine.execBcff m a s
  | .bsff m a => Sys2Proof.Machine.execBsff m a s
  | .birf r a => Sys2Proof.Machine.execBirf r a s
  | .bdrf r a => Sys2Proof.Machine.execBdrf r a s
  | .bxf a => Sys2Proof.Machine.execBxf a s
  | .bsxf a => Sys2Proof.Machine.execBsxf a s
  | .extdPrefix => Sys2Proof.Machine.execExtdPrefix s
  | .reserved => Sys2Proof.Machine.execReserved s
  | .reservedExtended op => Sys2Proof.Machine.execReservedExtended op s

end Sys2Proof.Machine
end

