-- ==== Sys2Proof/Machine/Fetch.lean ====
section
/-! DEFINITION. The instruction fetch (spec/30_encoding.md R101, R128): byte by byte at IP, the Program Counter advancing
inside its page, exactly the bytes the instruction has. -/

namespace Sys2Proof.Machine

/-- The byte Fetch8 reads (R101). -/
def State.byteAtIp (s : State) : Byte := s.memRead .fetch s.ip

/-- What Fetch8 leaves: its read recorded (R67, R76) and the Program Counter advanced inside the page (R25, R101). -/
def State.advance (s : State) : State := (s.record (s.memReads .fetch s.ip)).setIp (nextInPage s.ip)

/-- Fetches the operand bytes a cell's format needs, and answers the instruction and the state with IP = NIP. -/
def fetchOperands (e : Entry) (s : State) : Instr × State :=
  match e with
  | .one i => (i, s)
  | .imm f => (f s.byteAtIp, s.advance)
  | .rel f => (f (RelOperand.ofByte s.byteAtIp), s.advance)
  | .abs f => (f (AbsOperand.ofBytes s.byteAtIp s.advance.byteAtIp), s.advance.advance)
  | .branch f => (f (BranchOperand.ofBytes s.byteAtIp s.advance.byteAtIp), s.advance.advance)
  | .far f => (f (farAddress s.byteAtIp s.advance.byteAtIp), s.advance.advance)

/-- The fetch of R128: the opcode byte, or the prefix and the byte after it, and then the operand bytes. -/
def fetchInstr (s : State) : Instr × State :=
  if s.byteAtIp = extPrefix then fetchOperands (extEntry s.advance.byteAtIp) s.advance.advance
  else fetchOperands (baseEntry s.byteAtIp) s.advance

end Sys2Proof.Machine
end

