-- ==== Sys2Proof/Machine/Step.lean ====
section
/-! DEFINITION. One step of the core (spec/30_encoding.md R128). -/

namespace Sys2Proof.Machine

/-- Fetches and executes one instruction; the counter of the free values advances after it (log 10). -/
def runInstr (s : State) : Host.Outcome State Fault Refusal :=
  match exec (fetchInstr s).1 (fetchInstr s).2 with
  | .next t => .next t.tick
  | .fault r => .fault r
  | .refused r => .refused r

/-- R128: take an interrupt if one is to be taken now (R305, R306); else wait if halted; else run one instruction. -/
def step (s : State) : Host.Outcome State Fault Refusal :=
  match s.interruptDue with
  | some src => .next (s.enterInterrupt src)
  | none => if s.halted then .next s else runInstr s

/-- Stores a list of bytes at an address and on, inside the page, as the fetch reads them (R25). It stands for the
loading of a program from outside, so it does not ask the memory map. -/
def storeInPage : Word → List Byte → State → State
  | _, [], s => s
  | a, b :: rest, s => storeInPage (nextInPage a) rest { s with mem := Memory.put s.mem a.toNat b }

/-- The state with an instruction of the opcode table stored where the next step fetches. Nothing else changes (log 36). -/
def State.withFetchWord (s : State) (nbits w : Nat) : State := storeInPage s.ip (tableFetchBytes nbits w) s

end Sys2Proof.Machine
end

