-- ==== Sys2Proof/Safety.lean ====
section
/-! DEFINITION. The terms statements are made in: what an instruction may change (its frame), what its result and its flags
are, how a branch goes, the machine's invariant, and which steps go on. -/

namespace Sys2Proof.Machine

/-- What an instruction may change. Whatever is not named here stays as it was. Bits of PSL and PSU are given by number
(R27, R33). -/
structure MayChange where
  regs : List PhysReg := []
  psl : List Nat := []
  psu : List Nat := []
  stack : List (BitVec 4) := []
  ip : Bool := false
  ivb : Bool := false
  trapp : Bool := false
  halted : Bool := false
  mem : List Word := []
  trace : Bool := false

/-- PSL.CC, bits 7:6 (R33). -/
def ccBits : List Nat := [7, 6]

/-- CC, IDC, OVF, C: the bits an addition or subtraction writes (R33, R141, R142). -/
def arithBits : List Nat := [7, 6, 5, 2, 0]

/-- PSU.SP, bits 3:0 (R27). -/
def spBits : List Nat := [3, 2, 1, 0]

/-- `t` differs from `s` only where `c` allows: registers, bits of the status bytes, stack entries, the Instruction
Pointer, IVB, TRAPP, HALTED, the byte at every address of memory, and the record of transactions. The platform's own
data and the counter of the free values are always kept. -/
def Frame (c : MayChange) (s t : State) : Prop :=
  (∀ p, p ∉ c.regs → t.phys p = s.phys p) ∧
  (∀ k, k < 8 → k ∉ c.psl → t.psl.getLsbD k = s.psl.getLsbD k) ∧
  (∀ k, k < 8 → k ∉ c.psu → t.psu.getLsbD k = s.psu.getLsbD k) ∧
  (∀ k, k ∉ c.stack → t.stackAt k = s.stackAt k) ∧
  (c.ip = false → t.ip = s.ip) ∧
  (c.ivb = false → t.ivb = s.ivb) ∧
  (c.trapp = false → t.trapp = s.trapp) ∧
  (c.halted = false → t.halted = s.halted) ∧
  (∀ a, a ∉ c.mem → t.byteAt a = s.byteAt a) ∧
  (c.trace = false → t.trace = s.trace) ∧
  t.irqPending = s.irqPending ∧ t.memMap = s.memMap ∧ t.draws = s.draws

/-- Table 6 (R40), by the signed value: 00 zero, 10 negative, 01 positive. -/
def CCShows (v : Int) (cc : BitVec 2) : Prop :=
  (v = 0 → cc = 0#2) ∧ (v < 0 → cc = 2#2) ∧ (0 < v → cc = 1#2)

/-- Executing `i` in `s` answers a next state, of which `P` holds. -/
def Completes (i : Instr) (s : State) (P : State → Prop) : Prop :=
  ∃ t, exec i s = .next t ∧ P t

/-- The bytes of `i` (R100): the encoder writes them, and the decoder reads `i` from them, whatever bytes follow. -/
def EncodedAs (i : Instr) (bytes : List Byte) : Prop :=
  encode i = bytes ∧ ∀ rest, decode (bytes ++ rest) = .ok (i, rest)

/-- `v` was written into register `r` with CC set from it, and nothing else changed. -/
def Loads (r : Reg) (v : Byte) (s t : State) : Prop :=
  t.reg r = v ∧ CCShows v.toInt t.cc ∧ Frame { regs := [physOf s.rs r], psl := ccBits } s t

/-- The same for an absolute instruction (R114): the data register got `v`, the index register was adjusted, and nothing
else changed. -/
def LoadsAbs (r : Reg) (op : AbsOperand) (v : Byte) (s t : State) : Prop :=
  t.reg (dataReg r op.ic) = v ∧ CCShows v.toInt t.cc ∧
    (dataReg r op.ic ≠ r → t.reg r = (s.adjustIndex r op.ic).reg r) ∧
    Frame { regs := [physOf s.rs (dataReg r op.ic), physOf s.rs r], psl := ccBits } s t

/-- The carry an addition takes in (R141). -/
def carryIn (s : State) : Nat := if s.wc then s.carry.toNat else 0

/-- The borrow a subtraction takes in (R142): the inverse of C, with WC = 1. -/
def borrowIn (s : State) : Nat := if s.wc then 1 - s.carry.toNat else 0

/-- `v` and the flags of `t` are those of the sum of two bytes and a carry (R141), taken exactly. -/
def Sums (a b : Byte) (cin : Nat) (v : Byte) (t : State) : Prop :=
  v.toNat = (a.toNat + b.toNat + cin) % 256 ∧
  (t.carry = true ↔ 256 ≤ a.toNat + b.toNat + cin) ∧
  (t.idc = true ↔ 16 ≤ a.toNat % 16 + b.toNat % 16 + cin) ∧
  (t.ovf = true ↔ a.toInt + b.toInt + cin < -128 ∨ 127 < a.toInt + b.toInt + cin)

/-- `v` and the flags of `t` are those of the difference of two bytes and a borrow (R142), taken exactly: C and IDC are one
where nothing is borrowed. -/
def Subtracts (a b : Byte) (borrow : Nat) (v : Byte) (t : State) : Prop :=
  (v.toNat : Int) = ((a.toNat : Int) - b.toNat - borrow) % 256 ∧
  (t.carry = true ↔ b.toNat + borrow ≤ a.toNat) ∧
  (t.idc = true ↔ b.toNat % 16 + borrow ≤ a.toNat % 16) ∧
  (t.ovf = true ↔ a.toInt - b.toInt - borrow < -128 ∨ 127 < a.toInt - b.toInt - borrow)

/-- CC shows the comparison of two bytes, signed or unsigned by COM (R143), and nothing else changed but the registers
named. -/
def Compares (p q : Byte) (regs : List PhysReg) (s t : State) : Prop :=
  CCShows (if s.com then (p.toNat : Int) - q.toNat else p.toInt - q.toInt) t.cc ∧ Frame { regs := regs, psl := ccBits } s t

/-- CC shows a test under mask: 00 if every selected bit is one, else 10; nothing else changed. -/
def Tests (v mask : Byte) (s t : State) : Prop :=
  ((∀ k, k < 8 → mask.getLsbD k = true → v.getLsbD k = true) → t.cc = 0#2) ∧
  ((∃ k, k < 8 ∧ mask.getLsbD k = true ∧ v.getLsbD k = false) → t.cc = 2#2) ∧
  Frame { psl := ccBits } s t

/-- `v` was stored at `ea` (R65): RAM holds it, ROM and unmapped addresses do not, a device was handed it. Nothing else
changed but the registers named. -/
def Stores (ea : Word) (v : Byte) (regs : List PhysReg) (s t : State) : Prop :=
  (s.mapKind ea = some .ram → t.byteAt ea = v ∧ t.trace = s.trace) ∧
  (s.mapKind ea = some .rom ∨ s.mapKind ea = none → t.byteAt ea = s.byteAt ea ∧ t.trace = s.trace) ∧
  (s.mapKind ea = some .device → t.byteAt ea = s.byteAt ea ∧ t.trace = s.trace ++ [.deviceWrite ea v]) ∧
  Frame { regs := regs, mem := [ea], trace := true } s t

/-- The frame of a branch (R180): taken, it makes the reads of its target, goes to it and, with link, pushes the address of
the next instruction; not taken, it reads nothing and nothing changes (R76). -/
def Branches (taken : Prop) (link : Bool) (target : Word) (reads : List Transaction) (s t : State) : Prop :=
  (taken → t.ip = target ∧ (link = true → t.stackAt s.sp = s.ip ∧ t.sp = s.sp + 1#4) ∧
    Frame { ip := true, stack := if link then [s.sp] else [], psu := if link then spBits else [] } (s.record reads) t) ∧
  (¬ taken → t = s)

/-- CondTrue (R127). -/
def Holds (m : Cond) (s : State) : Prop := m = .un ∨ s.cc = m.bits

/-- One I/O transaction was made, and nothing else but the registers named and CC changed. -/
def Transacts (tr : Transaction) (c : MayChange) (s t : State) : Prop :=
  t.trace = s.trace ++ [tr] ∧ Frame { c with trace := true } s t

/-- The machine's invariant: memory is in canonical form, PSU bit 7 holds nothing (R31), IVB bits 3:0 are zero (R42). -/
def StateInv (s : State) : Prop :=
  Memory.wf s.mem = true ∧ s.psu.getLsbD 7 = false ∧ s.ivb.extractLsb' 0 4 = 0#4

/-- The instructions that may write Page Control (R26): the branches out of the page, by their form, and the returns. -/
def mayWritePage : Instr → Bool
  | .bctr _ op => op.ind
  | .bstr _ op => op.ind
  | .brnr _ op => op.ind
  | .bsnr _ op => op.ind
  | .bcfr _ op => op.ind
  | .bsfr _ op => op.ind
  | .birr _ op => op.ind
  | .bdrr _ op => op.ind
  | .bcta _ _ | .bsta _ _ | .brna _ _ | .bsna _ _ | .bcfa _ _ | .bsfa _ _ | .bira _ _ | .bdra _ _ => true
  | .bctf _ _ | .bstf _ _ | .brnf _ _ | .bsnf _ _ | .bcff _ _ | .bsff _ _ | .birf _ _ | .bdrf _ _ => true
  | .zbrr _ | .zbsr _ | .bxa _ | .bsxa _ | .bxf _ | .bsxf _ | .retc _ | .rete _ => true
  | _ => false

/-- The absolute branches without indirection (R26, R115, R116). -/
def isDirectAbsoluteBranch : Instr → Bool
  | .bcta _ op | .bsta _ op | .brna _ op | .bsna _ op | .bcfa _ op | .bsfa _ op | .bira _ op | .bdra _ op => !op.ind
  | .bxa op | .bsxa op => !op.ind
  | _ => false

/-- The instructions that may leave IP other than at the next instruction (R128): the branches and the returns. -/
def mayWriteIp : Instr → Bool
  | .bctr _ _ | .bstr _ _ | .brnr _ _ | .bsnr _ _ | .bcfr _ _ | .bsfr _ _ | .birr _ _ | .bdrr _ _ => true
  | i => mayWritePage i

/-- The additions and subtractions (families 8 and 10). -/
def isAddOrSubtract : Instr → Bool
  | .addz _ | .addi _ _ | .addr _ _ | .adda _ _ | .subz _ | .subi _ _ | .subr _ _ | .suba _ _ => true
  | _ => false

/-- The rotates. -/
def isRotate : Instr → Bool
  | .rrr _ | .rrl _ => true
  | _ => false

/-- The instructions that write PSL as a whole or under a mask: the PSL instructions (R33). -/
def isPslWriter : Instr → Bool
  | .lpsl | .cpsl _ | .ppsl _ | .pops => true
  | _ => false

/-- The instructions that write PSU as a whole or under a mask (R27). -/
def isPsuWriter : Instr → Bool
  | .lpsu | .cpsu _ | .ppsu _ | .pops => true
  | _ => false

/-- The six I/O instructions (spec/43_io.md). -/
def isIo : Instr → Bool
  | .wrtc _ | .wrtd _ | .redc _ | .redd _ | .wrte _ _ | .rede _ _ => true
  | _ => false

/-- An I/O transaction, as against a store or a read at a memory-mapped device. -/
def isIoTransaction : Transaction → Bool
  | .ioRead _ _ => true
  | .ioWrite _ _ => true
  | .deviceWrite _ _ => false
  | .deviceRead _ _ => false

def isDeviceRead : Transaction → Bool
  | .ioRead _ _ => false
  | .ioWrite _ _ => false
  | .deviceWrite _ _ => false
  | .deviceRead _ _ => true

/-- The instructions that read memory beyond their own bytes (R76): those with an operand in memory, and the stores and
branches through a pointer. -/
def readsMemory : Instr → Bool
  | .lodr _ _ | .eorr _ _ | .andr _ _ | .iorr _ _ | .addr _ _ | .subr _ _ | .comr _ _ => true
  | .loda _ _ | .eora _ _ | .anda _ _ | .iora _ _ | .adda _ _ | .suba _ _ | .coma _ _ => true
  | .lodf _ _ | .ldfi _ _ | .stfi _ _ => true
  | .strr _ op | .bctr _ op | .bstr _ op | .brnr _ op | .bsnr _ op | .bcfr _ op | .bsfr _ op => op.ind
  | .birr _ op | .bdrr _ op | .zbrr op | .zbsr op => op.ind
  | .stra _ op => op.ind
  | .bcta _ op | .bsta _ op | .brna _ op | .bsna _ op | .bcfa _ op | .bsfa _ op | .bira _ op | .bdra _ op => op.ind
  | .bxa op | .bsxa op => op.ind
  | _ => false

/-- Pushes the words of a list, first word first. -/
def pushAll : List Word → State → State
  | [], s => s
  | v :: vs, s => pushAll vs (s.push16 v)

/-- Pops `n` words: what they are, first popped first, and the state after. -/
def popAll : Nat → State → List Word × State
  | 0, s => ([], s)
  | n + 1, s => (s.topOfStack :: (popAll n s.dropTop).1, (popAll n s.dropTop).2)

/-- A byte of two decimal digits, and the number they make (packed BCD). -/
def isBcd (b : Byte) : Prop := b.toNat % 16 < 10 ∧ b.toNat / 16 < 10

def bcdValue (b : Byte) : Nat := b.toNat / 16 * 10 + b.toNat % 16

/-- The states an instruction runs through one after the other: each completes, and the last state has `P`. -/
def CompletesAll : List Instr → State → (State → Prop) → Prop
  | [], s, P => P s
  | i :: is, s, P => Completes i s fun t => CompletesAll is t P

/-- The bytes at IP are a reserved encoding (R122): B6h, or the prefix and a blank extended cell or `chrp`. -/
def reservedAt (s : State) : Prop :=
  s.byteAtIp = 0xB6#8 ∨
    (s.byteAtIp = 0xB7#8 ∧ (isBlankExtended s.advance.byteAtIp = true ∨ s.advance.byteAtIp = 0x13#8))

/-- The bytes of a list stand in the platform's memory at an address and on, inside the page (R25), as a fetch reads
them. -/
def BytesAt (s : State) : Word → List Byte → Prop
  | _, [] => True
  | a, b :: rest => s.memRead .fetch a = b ∧ BytesAt s (nextInPage a) rest

/-- The state after `n` bytes are fetched: each read recorded where it is a device's, IP moved (R67, R76, R101). -/
def State.advanceBy : Nat → State → State
  | 0, s => s
  | n + 1, s => State.advanceBy n s.advance

/-- The address `n` bytes on inside the page (R25). -/
def skipInPage : Nat → Word → Word
  | 0, a => a
  | n + 1, a => skipInPage n (nextInPage a)

end Sys2Proof.Machine
end

