-- ==== Sys2Proof/Certificates/Slice0/Obligations.lean ====
section
/-! DEFINITION. The statements for the provers. Every result is that of `exec`, which runs when the Instruction Pointer
already holds NIP, the address of the next instruction (R10, R101); `x[r]` of the spec is `s.reg r`;
`s.record reads` is `s` with reads at device addresses recorded (R76), in the model's form (log 9). Where a docstring names a
log entry, the statement rests on that entry's choice. -/

open Sys2Proof Sys2Proof.Machine

/-! ## Reset and the invariant -/

/-- R27, R33, R46, R340, R341: what reset leaves in the status bytes, HALTED and IP. IP is the parameter RESET_IP (log 5);
HALTED = 0 the spec itself infers (R46; DEDUCED, log 6). -/
def Obligations.ResetStatus : Prop :=
  State.reset.psu = 0x20#8 ∧ State.reset.sp = 0#4 ∧ State.reset.ii = true ∧ State.reset.flagOut = false ∧
    State.reset.psl = 0x00#8 ∧ State.reset.cc = 0#2 ∧ State.reset.idc = false ∧ State.reset.rs = false ∧
    State.reset.wc = false ∧ State.reset.ovf = false ∧ State.reset.com = false ∧ State.reset.carry = false ∧
    State.reset.halted = false ∧ State.reset.ip = Config.resetIp ∧ State.reset.interruptDue = none

/-- The machine's invariant holds after reset (R31, R42, R60). -/
def Obligations.ResetMeetsInvariant : Prop := StateInv State.reset

/-- Every step keeps the invariant: memory in canonical form (log 7), PSU bit 7 without storage (R31, D12, log 28), IVB bits
3:0 zero (R42). -/
def Obligations.StepKeepsInvariant : Prop :=
  ∀ s t : State, StateInv s → step s = .next t → StateInv t

/-! ## Encoding and fetch -/

/-- Decoding the bytes of a well-formed instruction gives it back, every operand at every value, and leaves the bytes after
it (R100 to R109, R120, R121; the byte of `cpl` is log 21). -/
def Obligations.DecodeOfEncode : Prop :=
  ∀ (i : Instr) (rest : List Byte), WellFormed i → decode (encode i ++ rest) = .ok (i, rest)

/-- Whatever the decoder reads, the encoder writes: no bit of an encoding is dropped. The one term that is not well-formed
is the prefix byte alone (R109). -/
def Obligations.EncodeOfDecode : Prop :=
  ∀ (bytes : List Byte) (i : Instr) (rest : List Byte), decode bytes = .ok (i, rest) →
    encode i ++ rest = bytes ∧ (WellFormed i ∨ (i = .extdPrefix ∧ bytes = [0xB7#8]))

/-- Every cell of both maps is accounted for (R120, R121): any four bytes begin with a well-formed instruction. -/
def Obligations.DecodeTotal : Prop :=
  ∀ (b0 b1 b2 b3 : Byte) (rest : List Byte),
    ∃ i after, decode (b0 :: b1 :: b2 :: b3 :: rest) = .ok (i, after) ∧ WellFormed i ∧
      rest.length ≤ after.length ∧ after.length ≤ rest.length + 3

/-- R100: one to three bytes, or two to four with the prefix (D35); the opcode byte after the prefix, if any, alone
determines the length. -/
def Obligations.OpcodeFixesLength : Prop :=
  (∀ i : Instr, WellFormed i →
    ((encode i).head? = some 0xB7#8 → 2 ≤ (encode i).length ∧ (encode i).length ≤ 4) ∧
    ((encode i).head? ≠ some 0xB7#8 → 1 ≤ (encode i).length ∧ (encode i).length ≤ 3)) ∧
  (∀ i j : Instr, WellFormed i → WellFormed j → (encode i).head? = (encode j).head? →
    ((encode i).head? = some 0xB7#8 → (encode i)[1]? = (encode j)[1]?) →
    (encode i).length = (encode j).length)

/-- Words written out from the spec's tables (R105 to R109, R120, R121) decode to the instructions they stand for. -/
def Obligations.SampleWordsDecode : Prop :=
  decode [0x05#8, 0x7F#8] = .ok (.lodi .r1 0x7F#8, []) ∧
  decode [0x1B#8, 0x7E#8] = .ok (.bctr .un ⟨false, 0x7E#7⟩, []) ∧
  decode [0x0D#8, 0xE1#8, 0x00#8] = .ok (.loda .r1 ⟨true, .indexed, 0x0100#13⟩, []) ∧
  decode [0x1E#8, 0x80#8, 0x40#8] = .ok (.bcta .lt ⟨true, 0x0040#15⟩, []) ∧
  decode [0x9B#8, 0xFE#8] = .ok (.zbrr ⟨true, 0x7E#7⟩, []) ∧
  decode [0xB7#8, 0x90#8] = .ok (.trap, []) ∧
  decode [0xB7#8, 0x0D#8, 0x40#8, 0x00#8] = .ok (.ldfi .r1 0x4000#16, []) ∧
  decode [0xB6#8] = .ok (.reserved, [])

/-- R67, R101, R109, R128: where the bytes of a well-formed instruction stand at IP, inside the page, and no interrupt is
due and the core is not halted, a step is `exec` of that instruction in the state after its bytes are fetched, with IP at
the next instruction and nothing else changed but the record of reads at devices (log 9); the counter of the free values
then advances (log 10). -/
def Obligations.StepRunsDecoded : Prop :=
  ∀ (s : State) (i : Instr), WellFormed i → s.interruptDue = none → s.halted = false →
    BytesAt s s.ip (encode i) →
    (step s = match exec i (s.advanceBy (encode i).length) with
      | .next t => .next t.tick
      | .fault r => .fault r
      | .refused r => .refused r) ∧
    (s.advanceBy (encode i).length).ip = skipInPage (encode i).length s.ip ∧
    Frame { ip := true, trace := true } s (s.advanceBy (encode i).length)

/-- R300, R122: there is no synchronous exception. A step answers a next state unless the bytes at IP are a reserved
encoding, and then it refuses them by name (D17, log 34). -/
def Obligations.StepGoesOnUnlessReserved : Prop :=
  ∀ s : State,
    ((s.interruptDue = none ∧ s.halted = false ∧ reservedAt s) →
      step s = .refused (.reservedOpcode (if s.byteAtIp = 0xB6#8 then [0xB6#8] else [0xB7#8, s.advance.byteAtIp]))) ∧
    (¬ (s.interruptDue = none ∧ s.halted = false ∧ reservedAt s) → ∃ t, step s = .next t)

/-- R122, R272, R109: the rows to which the source gives no behaviour stop by name (D17, log 34). -/
def Obligations.ReservedRowsRefused : Prop :=
  ∀ s : State,
    exec .chrp s = .refused (.reservedOpcode [0xB7#8, 0x13#8]) ∧
    exec .reserved s = .refused (.reservedOpcode [0xB6#8]) ∧
    (∀ op : Byte, exec (.reservedExtended op) s = .refused (.reservedOpcode [0xB7#8, op])) ∧
    exec .extdPrefix s = .refused .prefixAlone

/-! ## Rules over all instructions -/

/-- R24, R25, R26, R128 (C11, D27, log 40): which instructions change the Instruction Pointer and Page Control, and which
bits; `bxa` and `bsxa`, indexed, keep IP bit 15 too (D9, log 25). The fetch never changes Page Control. -/
def Obligations.PageControlWriters : Prop :=
  (∀ s : State, (fetchInstr s).2.page = s.page) ∧
  (∀ (i : Instr) (s t : State), exec i s = .next t →
    (mayWriteIp i = false → t.ip = s.ip) ∧
    (mayWritePage i = false → t.page = s.page) ∧
    (isDirectAbsoluteBranch i = true → t.ip.getLsbD 15 = s.ip.getLsbD 15) ∧
    (∀ op : RelOperand, op.ind = false → i = .zbrr op ∨ i = .zbsr op → t.page = 0#3))

/-- R35, R37, R38 (settings: only the PSL instructions), R29, R27 (II, F and bit 4), R42 (IVB: only `svb`), R43 (TRAPP: only
`trap` and `clrt`), R44 (HALTED: only `halt`): which instructions change the control state. That none changes the platform's
pending flags or its memory map is the model's choice (log 13, log 8). -/
def Obligations.ControlStateWriters : Prop :=
  ∀ (i : Instr) (s t : State), exec i s = .next t →
    (t.com ≠ s.com ∨ t.wc ≠ s.wc ∨ t.rs ≠ s.rs → isPslWriter i = true) ∧
    (t.flagOut ≠ s.flagOut ∨ t.psu.getLsbD 4 ≠ s.psu.getLsbD 4 → isPsuWriter i = true) ∧
    (t.ii ≠ s.ii → isPsuWriter i = true ∨ ∃ m, i = .rete m) ∧
    (t.ivb ≠ s.ivb → i = .svb) ∧
    (t.trapp ≠ s.trapp → i = .trap ∨ i = .clrt) ∧
    (t.halted ≠ s.halted → i = .halt) ∧
    t.irqPending = s.irqPending ∧ t.memMap = s.memMap

/-- R34, R36, R39: which instructions change C, OVF and IDC. Rotates change C and IDC only with WC = 1, and OVF never (C9,
D25, log 22). -/
def Obligations.ArithmeticFlagWriters : Prop :=
  ∀ (i : Instr) (s t : State), exec i s = .next t →
    (t.ovf ≠ s.ovf → isAddOrSubtract i = true ∨ isPslWriter i = true) ∧
    (t.carry ≠ s.carry ∨ t.idc ≠ s.idc →
      isAddOrSubtract i = true ∨ isPslWriter i = true ∨ (isRotate i = true ∧ s.wc = true))

/-- R41: no instruction generates CC = 11; `lpsl`, `ppsl` and `pops` can place it there; with CC = 11 the branches on true
and the returns are taken only with mask `un`, and the branches on false with every legal mask. What a branch taken leaves
is as the statements about the branches say (SP wraps: D10, log 26; reads at devices recorded: log 9, 33). -/
def Obligations.ConditionCodeEleven : Prop :=
  (∀ (i : Instr) (s t : State), exec i s = .next t → t.cc = 3#2 →
    s.cc = 3#2 ∨ i = .lpsl ∨ (∃ mask, i = .ppsl mask) ∨ i = .pops) ∧
  (∃ s t : State, s.cc = 0#2 ∧ exec .lpsl s = .next t ∧ t.cc = 3#2) ∧
  (∃ s t : State, s.cc = 0#2 ∧ exec (.ppsl 0xC0#8) s = .next t ∧ t.cc = 3#2) ∧
  (∃ s t : State, s.cc = 0#2 ∧ exec .pops s = .next t ∧ t.cc = 3#2) ∧
  (∀ (s : State) (m : Cond) (rop : RelOperand) (bop : BranchOperand) (a : Word), s.cc = 3#2 →
    (m ≠ .un →
      exec (.bctr m rop) s = .next s ∧ exec (.bcta m bop) s = .next s ∧ exec (.bctf m a) s = .next s ∧
      exec (.bstr m rop) s = .next s ∧ exec (.bsta m bop) s = .next s ∧ exec (.bstf m a) s = .next s ∧
      exec (.retc m) s = .next s ∧ exec (.rete m) s = .next s) ∧
    (exec (.bctr .un rop) s = .next ((s.record (s.relReads rop)).setIp (s.relAddress rop)) ∧
      exec (.bcta .un bop) s = .next ((s.record (s.branchReads bop)).setIp (s.branchAddress bop)) ∧
      exec (.bctf .un a) s = .next (s.setIp a) ∧
      exec (.bstr .un rop) s = .next (((s.record (s.relReads rop)).push16 s.ip).setIp (s.relAddress rop)) ∧
      exec (.bsta .un bop) s = .next (((s.record (s.branchReads bop)).push16 s.ip).setIp (s.branchAddress bop)) ∧
      exec (.bstf .un a) s = .next ((s.push16 s.ip).setIp a) ∧
      exec (.retc .un) s = .next (s.returnFrom false) ∧ exec (.rete .un) s = .next (s.returnFrom true)) ∧
    (m ≠ .un →
      exec (.bcfr m rop) s = .next ((s.record (s.relReads rop)).setIp (s.relAddress rop)) ∧
      exec (.bcfa m bop) s = .next ((s.record (s.branchReads bop)).setIp (s.branchAddress bop)) ∧
      exec (.bcff m a) s = .next (s.setIp a) ∧
      exec (.bsfr m rop) s = .next (((s.record (s.relReads rop)).push16 s.ip).setIp (s.relAddress rop)) ∧
      exec (.bsfa m bop) s = .next (((s.record (s.branchReads bop)).push16 s.ip).setIp (s.branchAddress bop)) ∧
      exec (.bsff m a) s = .next ((s.push16 s.ip).setIp a)))

/-- R226, R68, R76: each I/O instruction makes exactly one transaction, which is an I/O transaction, and no other
instruction makes an I/O transaction; an instruction that reads no memory beyond its own bytes makes no device read, and
none makes more than three transactions; the record only grows (D22, D30, log 9, 12, 33). -/
def Obligations.IoTransactionsCounted : Prop :=
  ∀ (i : Instr) (s t : State), exec i s = .next t →
    ∃ more, t.trace = s.trace ++ more ∧ more.length ≤ 3 ∧
      (isIo i = true → more.length = 1 ∧ ∀ tr ∈ more, isIoTransaction tr = true) ∧
      (isIo i = false → ∀ tr ∈ more, isIoTransaction tr = false) ∧
      (readsMemory i = false → ∀ tr ∈ more, isDeviceRead tr = false)

/-! ## Registers, memory, the internal stack -/

/-- R21: writing `x[r]` changes the register it names and no other, and a change of RS shows the other bank, the hidden one
keeping its values; R0 is in both. Which bank RS = 0 selects is PRESUMED by the spec (D21, log 23). -/
def Obligations.RegisterBanks : Prop :=
  ∀ (s : State) (r : Reg) (v : Byte),
    (s.setReg r v).reg r = v ∧
    (∀ q, q ≠ r → (s.setReg r v).reg q = s.reg q) ∧
    Frame { regs := [physOf s.rs r] } s (s.setReg r v) ∧
    (∀ psl : Byte, psl.getLsbD 4 ≠ s.rs →
      ((s.setReg r v).setPsl psl).reg .r0 = (s.setReg r v).reg .r0 ∧
      (r ≠ .r0 → ∀ q, ((s.setReg r v).setPsl psl).reg q = (s.setPsl psl).reg q)) ∧
    (∀ psl : Byte, psl.getLsbD 4 = false → (s.setPsl psl).reg .r1 = s.r1 ∧ (s.setPsl psl).reg .r2 = s.r2 ∧
      (s.setPsl psl).reg .r3 = s.r3) ∧
    (∀ psl : Byte, psl.getLsbD 4 = true → (s.setPsl psl).reg .r1 = s.r1b ∧ (s.setPsl psl).reg .r2 = s.r2b ∧
      (s.setPsl psl).reg .r3 = s.r3b)

/-- R65, R71 (D29, D19): RAM returns the last byte written, whichever read asks; ROM and unmapped addresses ignore a write;
a device is handed it; no other address reads differently. -/
def Obligations.MemoryReadAfterWrite : Prop :=
  ∀ (s : State) (a : Word) (v : Byte),
    (s.mapKind a = some .ram → ∀ k, (s.memWrite a v).memRead k a = v) ∧
    (s.mapKind a = some .rom ∨ s.mapKind a = none → s.memWrite a v = s) ∧
    (s.mapKind a = some .device → s.memWrite a v = s.record [.deviceWrite a v]) ∧
    (∀ (b : Word) (k : MemAccess), b ≠ a → (s.memWrite a v).memRead k b = s.memRead k b)

/-- The canonical form is canonical: two memories in it that give the same byte at every address are the same list (log
7). -/
def Obligations.CanonicalMemoriesEqual : Prop :=
  ∀ m n : List Host.Cell, Memory.wf m = true → Memory.wf n = true →
    (∀ a : Word, Memory.get? m a.toNat = Memory.get? n a.toNat) → m = n

/-- R62, R118: a pointer is big-endian, its second byte at the next address inside the page or at the next 16-bit address
(PTR_WRAP, D5, log 19). -/
def Obligations.PointersBigEndian : Prop :=
  ∀ (s : State) (a : Word) (hi lo : Byte) (kind : PtrKind),
    (s.mapKind a = some .ram → s.mapKind (pointerSecond kind a) = some .ram →
      ((s.memWrite a hi).memWrite (pointerSecond kind a) lo).ptr16 kind a = hi ++ lo) ∧
    (pointerSecond .page a).toNat = a.toNat / 8192 * 8192 + (a.toNat % 8192 + 1) % 8192 ∧
    (pointerSecond .flat a).toNat = (a.toNat + 1) % 65536

/-- R112 to R116: the direct addresses in numbers. A relative address is in the current page, from NIP (D3, D4, log 24, 25);
a zero-relative one is in page 0; an absolute one is in the current page plus the index (D6); an absolute branch stays in
its half of memory, indexed or not (D9); a far indexed one wraps at 65,536. The R3 of the indexed branches is that of the
current bank (D21, log 23). -/
def Obligations.DirectAddresses : Prop :=
  ∀ (s : State) (r : Reg) (ic : IndexControl) (d : BitVec 7) (a13 : BitVec 13) (a15 : BitVec 15) (a16 : Word),
    ((s.relAddress ⟨false, d⟩).toNat / 8192 = s.ip.toNat / 8192 ∧
      ((s.relAddress ⟨false, d⟩).toNat % 8192 : Int) = (s.ip.toNat % 8192 + d.toInt) % 8192) ∧
    ((s.zeroAddress ⟨false, d⟩).toNat : Int) = d.toInt % 8192 ∧
    ((s.absAddress r ⟨false, ic, a13⟩).toNat / 8192 = s.ip.toNat / 8192 ∧
      (s.absAddress r ⟨false, ic, a13⟩).toNat % 8192 =
        (a13.toNat + (if ic = .none then 0 else (s.reg r).toNat)) % 8192) ∧
    (s.branchAddress ⟨false, a15⟩).toNat = s.ip.toNat / 32768 * 32768 + a15.toNat ∧
    (s.indexedBranchAddress ⟨false, a15⟩).toNat =
      s.ip.toNat / 32768 * 32768 + (a15.toNat + (s.reg .r3).toNat) % 32768 ∧
    (s.farIndexedAddress a16).toNat = (a16.toNat + (s.reg .r3).toNat) % 65536

/-- R112 to R118: with the indirect bit the address is the pointer at the direct one, plus the index where the mode has one,
modulo 65,536 (D5, D6, D9, log 19, 25), by R3 of the current bank in `bxa` and `bsxa` (D21, log 23); `ldfi` and `stfi` read
their pointer at the far address (C6, D23, log 20). -/
def Obligations.IndirectAddresses : Prop :=
  ∀ (s : State) (r : Reg) (ic : IndexControl) (d : BitVec 7) (a13 : BitVec 13) (a15 : BitVec 15) (a16 : Word),
    s.relAddress ⟨true, d⟩ = s.ptr16 .page (s.relAddress ⟨false, d⟩) ∧
    s.zeroAddress ⟨true, d⟩ = s.ptr16 .page (s.zeroAddress ⟨false, d⟩) ∧
    (s.absAddress r ⟨true, ic, a13⟩).toNat =
      ((s.ptr16 .page (s.absAddress r ⟨false, .none, a13⟩)).toNat + (if ic = .none then 0 else (s.reg r).toNat)) % 65536 ∧
    s.branchAddress ⟨true, a15⟩ = s.ptr16 .page (s.branchAddress ⟨false, a15⟩) ∧
    (s.indexedBranchAddress ⟨true, a15⟩).toNat =
      ((s.ptr16 .page (s.branchAddress ⟨false, a15⟩)).toNat + (s.reg .r3).toNat) % 65536 ∧
    s.farIAddress farIMode r a16 = s.memRead .pointerHigh a16 ++ s.memRead .pointerLow (a16 + 1#16)

/-- R114, R119: auto-increment and auto-decrement change the index register by one, modulo 256, and nothing else, no flag
(D7); with any index control but none the data register is R0. -/
def Obligations.IndexRegisterAdjusted : Prop :=
  ∀ (s : State) (r : Reg),
    s.adjustIndex r .none = s ∧ s.adjustIndex r .indexed = s ∧
    ((s.adjustIndex r .autoInc).reg r).toNat = ((s.reg r).toNat + 1) % 256 ∧
    ((s.adjustIndex r .autoDec).reg r).toNat = ((s.reg r).toNat + 255) % 256 ∧
    (∀ ic, Frame { regs := [physOf s.rs r] } s (s.adjustIndex r ic)) ∧
    dataReg r .none = r ∧ (∀ ic, ic ≠ .none → dataReg r ic = .r0)

/-- R28: what is pushed is popped, last in first out, up to 16 words from any SP, and SP comes back; a 17th push overwrites
the first (D10, log 26). -/
def Obligations.StackLastInFirstOut : Prop :=
  ∀ (s : State) (words : List Word), words.length ≤ 16 →
    (popAll words.length (pushAll words s)).1 = words.reverse ∧
    (popAll words.length (pushAll words s)).2.sp = s.sp ∧
    (words.length = 16 → ∀ w, ((pushAll words s).push16 w).stackAt s.sp = w)

/-! ## Interrupts -/

/-- R305, R304 (D33): an interrupt is due if and only if II = 0 and some source is pending, the trap by TRAPP. -/
def Obligations.InterruptDueWhen : Prop :=
  ∀ s : State, (∃ src, s.interruptDue = some src) ↔ (s.ii = false ∧ (s.trapp = true ∨ s.irqPending ≠ []))

/-- R302, R307 (D32, log 14): IRQ_PRIORITY is a total order on the sources, by their ranks, and the trap's number is 4; the
source taken is a pending one and comes before every other pending one; so which one it is depends on II and the set of
pending sources, and not on how the set is held. That sources of one rank are ordered by their own numbers is the model's
(log 14). -/
def Obligations.HighestPriorityServed : Prop :=
  (∀ x, servedBefore x x = false) ∧
  (∀ x y z, servedBefore x y = true → servedBefore y z = true → servedBefore x z = true) ∧
  (∀ x y, x ≠ y → servedBefore x y = true ∨ servedBefore y x = true) ∧
  (∀ x y, servedBefore x y = true → irqRankOf x ≤ irqRankOf y) ∧ irqNumberOf .trap = 4 ∧
  (∀ (s : State) (src : IrqSource), s.interruptDue = some src →
    ((src = .trap ∧ s.trapp = true) ∨ ∃ n ∈ s.irqPending, src = .platform n) ∧
    (s.trapp = true → src ≠ .trap → servedBefore src .trap = true) ∧
    (∀ n ∈ s.irqPending, src ≠ .platform n → servedBefore src (.platform n) = true)) ∧
  (∀ s t : State, s.ii = t.ii → s.trapp = t.trapp → (∀ n, n ∈ s.irqPending ↔ n ∈ t.irqPending) →
    s.interruptDue = t.interruptDue)

/-- R65, R76, R305, R306 (D14, log 18): taking an interrupt makes the reads of its target, if the target is read from
memory, pushes the address of the next instruction, sets II, clears HALTED and goes to IRQ_TARGET, of the vector base, the
source and the bytes read (log 15); nothing else changes, TRAPP included (D31, log 17); SP wraps modulo 16 (D10, log 26).
Which addresses are read is IRQ_TARGET's (log 15), and that a read of a device is recorded, and any other not, is the
model's choice (log 9). It is a step of its own (log 16). -/
def Obligations.InterruptEntry : Prop :=
  ∀ (s : State) (src : IrqSource), s.interruptDue = some src →
    ∃ t, step s = .next t ∧ t.stackAt s.sp = s.ip ∧ t.sp = s.sp + 1#4 ∧ t.ii = true ∧ t.halted = false ∧
      t.ip = Config.irqTarget s.ivb src ((Config.irqVector s.ivb src).zipIdx.map fun p => s.memRead (.vector p.2) p.1) ∧
      t.trace = s.trace ++ (Config.irqVector s.ivb src).zipIdx.flatMap (fun p => s.memReads (.vector p.2) p.1) ∧
      ((∀ a ∈ Config.irqVector s.ivb src, s.mapKind a ≠ some .device) → t.trace = s.trace) ∧
      t.trapp = s.trapp ∧
      Frame { stack := [s.sp], psu := 5 :: spBits, ip := true, halted := true, trace := true } s t

/-- R234, R241, R44, R309 (D16, log 38): `nop` changes nothing; `halt` sets HALTED with IP at the next instruction and
changes nothing else; while halted with no interrupt due nothing changes, and with II = 1 none is ever due. -/
def Obligations.NopHaltAndWait : Prop :=
  ∀ s : State,
    exec .nop s = .next s ∧
    (Completes .halt s fun t => t.halted = true ∧ Frame { halted := true } s t ∧
      (s.interruptDue = none → step t = .next t)) ∧
    (s.halted = true → s.interruptDue = none → step s = .next s) ∧
    (s.halted = true → s.ii = true → step s = .next s)

/-- R198, R306, R311, R309: an interrupt and the `rete` of its handler come back to the interrupted instruction with SP as
it was and II = 0, as it was; nothing is changed but the stack entry used, and HALTED is 0 (D14, D38, log 18, 38; TRAPP is
kept: D31, log 17); the reads of the target are recorded where they are a device's, which is the model's choice (log 9, 15);
also from SP = 15 (D10, log 26). `retc` does the same but leaves II = 1. -/
def Obligations.EntryThenReturn : Prop :=
  ∀ (s : State) (src : IrqSource), s.interruptDue = some src →
    (∃ t u, step s = .next t ∧ exec (.rete .un) t = .next u ∧ u.ip = s.ip ∧ u.halted = false ∧
      Frame { stack := [s.sp], halted := true } (s.record (s.vectorReads src)) u) ∧
    (∃ t u, step s = .next t ∧ exec (.retc .un) t = .next u ∧ u.ip = s.ip ∧ u.ii = true ∧ u.halted = false ∧
      Frame { stack := [s.sp], psu := [5], halted := true } (s.record (s.vectorReads src)) u)

/-- R265, R266, R302, R304 (C10, D13, D31, log 17): `trap` sets TRAPP whatever II is, and then an interrupt is due as soon
as II = 0; `clrt` clears it whatever II is, and then none is due unless a source of the platform is pending. -/
def Obligations.TrapRequestsInterrupt : Prop :=
  ∀ s : State,
    (Completes .trap s fun t => t.trapp = true ∧ Frame { trapp := true } s t ∧
      (t.interruptDue ≠ none ↔ s.ii = false) ∧ (t.setII false).interruptDue ≠ none) ∧
    (Completes .clrt s fun t => t.trapp = false ∧ Frame { trapp := true } s t ∧
      (s.irqPending = [] → t.interruptDue = none))

/-- R268, R269, R270 (D11, D12, log 27, 28): `pshs` writes PSU, bit 7 the Sense level, and PSL into one entry; `pops` loads
PSU bits 6:0, SP among them, and PSL from the popped entry; SP wraps modulo 16 (D10, log 26). -/
def Obligations.ProgramStatusOnStack : Prop :=
  ∀ s : State,
    (Completes .pshs s fun t =>
      (t.stackAt s.sp).toNat = 256 * s.psuRead.toNat + s.psl.toNat ∧ t.sp = s.sp + 1#4 ∧
      s.psuRead.getLsbD 7 = Config.senseLevel s.draws ∧ (∀ k, k < 7 → s.psuRead.getLsbD k = s.psu.getLsbD k) ∧
      Frame { stack := [s.sp], psu := spBits } s t) ∧
    (Completes .pops s fun t =>
      (∀ k, k < 8 → t.psl.getLsbD k = (s.stackAt (s.sp - 1#4)).getLsbD k) ∧
      (∀ k, k < 7 → t.psu.getLsbD k = (s.stackAt (s.sp - 1#4)).getLsbD (8 + k)) ∧ t.psu.getLsbD 7 = false ∧
      Frame { psl := [7, 6, 5, 4, 3, 2, 1, 0], psu := [7, 6, 5, 4, 3, 2, 1, 0] } s t)

/-- R268, R269 (D11, log 27; SP wraps: D10, log 26; PSU bit 7 has no storage: D12, log 28): `pshs` and then `pops` bring PSU
and PSL back, whatever `ppsl` did between, and change only the stack entry used. The premise is a clause of the
invariant. -/
def Obligations.PshsPopsRoundTrip : Prop :=
  ∀ (s : State) (mask : Byte), s.psu.getLsbD 7 = false →
    CompletesAll [.pshs, .ppsl mask, .pops] s fun t => t.psu = s.psu ∧ t.psl = s.psl ∧ Frame { stack := [s.sp] } s t

/-! ## Loads and logic -/

/-- R145: `lodi` writes the immediate and sets CC from it. -/
def Obligations.LoadImmediate : Prop :=
  ∀ (s : State) (r : Reg) (imm : Byte),
    EncodedAs (.lodi r imm) [0x04#8 + r.bits.setWidth 8, imm] ∧ Completes (.lodi r imm) s (Loads r imm s)

/-- R280: `lodf` loads from any of the 65,536 addresses, a read at a device recorded (R76, log 9). -/
def Obligations.LoadFar : Prop :=
  ∀ (s : State) (r : Reg) (a : Word),
    EncodedAs (.lodf r a) [0xB7#8, 0x08#8 + r.bits.setWidth 8, a.extractLsb' 8 8, a.extractLsb' 0 8] ∧
    Completes (.lodf r a) s (Loads r (s.memRead .data a) (s.record (s.memReads .data a)))

/-- R144, R146, R147, R281 (D3 to D8, D34, log 9, 19, 20, 24, 25, 40): the loads from a register into R0, R0 itself a legal
source, and from memory by relative, absolute and far indirect address. -/
def Obligations.LoadsFromRegisterAndMemory : Prop :=
  ∀ (s : State) (r : Reg) (rop : RelOperand) (aop : AbsOperand) (a : Word),
    Completes (.lodz r) s (Loads .r0 (s.reg r) s) ∧
    Completes (.lodr r rop) s (Loads r (s.memRead .data (s.relAddress rop)) (s.record (s.relByteReads rop))) ∧
    Completes (.loda r aop) s (LoadsAbs r aop
      ((s.adjustIndex r aop.ic).memRead .data ((s.adjustIndex r aop.ic).absAddress r aop))
      (s.record ((s.adjustIndex r aop.ic).absByteReads r aop))) ∧
    Completes (.ldfi r a) s (Loads r (s.memRead .data (s.ptr16 .flat a))
      (s.record (s.ptr16Reads .flat a ++ s.memReads .data (s.ptr16 .flat a))))

/-- R148, R149, R152, R153, R156, R157: the logic of R0 with a register, into R0, and of a register with an immediate, into
that register, with CC from the result; there is no `andz,r0`, and 40h is `halt`. -/
def Obligations.LogicWithRegisterAndImmediate : Prop :=
  ∀ (s : State) (r : Reg) (imm : Byte),
    EncodedAs (.eorz r) [0x20#8 + r.bits.setWidth 8] ∧
    Completes (.eorz r) s (Loads .r0 (s.reg .r0 ^^^ s.reg r) s) ∧
    (r ≠ .r0 → EncodedAs (.andz r) [0x40#8 + r.bits.setWidth 8] ∧
      Completes (.andz r) s (Loads .r0 (s.reg .r0 &&& s.reg r) s)) ∧
    ¬ WellFormed (.andz .r0) ∧ EncodedAs .halt [0x40#8] ∧
    EncodedAs (.iorz r) [0x60#8 + r.bits.setWidth 8] ∧
    Completes (.iorz r) s (Loads .r0 (s.reg .r0 ||| s.reg r) s) ∧
    EncodedAs (.eori r imm) [0x24#8 + r.bits.setWidth 8, imm] ∧
    Completes (.eori r imm) s (Loads r (s.reg r ^^^ imm) s) ∧
    EncodedAs (.andi r imm) [0x44#8 + r.bits.setWidth 8, imm] ∧
    Completes (.andi r imm) s (Loads r (s.reg r &&& imm) s) ∧
    EncodedAs (.iori r imm) [0x64#8 + r.bits.setWidth 8, imm] ∧
    Completes (.iori r imm) s (Loads r (s.reg r ||| imm) s)

/-- R150, R151, R154, R155, R158, R159 (D3 to D8, log 9, 19, 24, 25): the logic of a register with a byte of memory;
indexed, the data register is R0 and the index register is adjusted first. -/
def Obligations.LogicWithMemory : Prop :=
  ∀ (s : State) (r : Reg) (rop : RelOperand) (aop : AbsOperand),
    Completes (.eorr r rop) s (Loads r (s.reg r ^^^ s.memRead .data (s.relAddress rop)) (s.record (s.relByteReads rop))) ∧
    Completes (.andr r rop) s (Loads r (s.reg r &&& s.memRead .data (s.relAddress rop)) (s.record (s.relByteReads rop))) ∧
    Completes (.iorr r rop) s (Loads r (s.reg r ||| s.memRead .data (s.relAddress rop)) (s.record (s.relByteReads rop))) ∧
    Completes (.eora r aop) s (LoadsAbs r aop ((s.adjustIndex r aop.ic).reg (dataReg r aop.ic) ^^^
      (s.adjustIndex r aop.ic).memRead .data ((s.adjustIndex r aop.ic).absAddress r aop))
      (s.record ((s.adjustIndex r aop.ic).absByteReads r aop))) ∧
    Completes (.anda r aop) s (LoadsAbs r aop ((s.adjustIndex r aop.ic).reg (dataReg r aop.ic) &&&
      (s.adjustIndex r aop.ic).memRead .data ((s.adjustIndex r aop.ic).absAddress r aop))
      (s.record ((s.adjustIndex r aop.ic).absByteReads r aop))) ∧
    Completes (.iora r aop) s (LoadsAbs r aop ((s.adjustIndex r aop.ic).reg (dataReg r aop.ic) |||
      (s.adjustIndex r aop.ic).memRead .data ((s.adjustIndex r aop.ic).absAddress r aop))
      (s.record ((s.adjustIndex r aop.ic).absByteReads r aop)))

/-! ## Addition and subtraction -/

/-- R141, R160 to R163 (OVF counts the carry-in: D36, log 30; addresses: D3 to D8, log 9, 19, 24, 25): the sum into the
register, C, IDC and OVF from it, CC from the value; indexed, the data register is R0 and the index register is adjusted
first, writing no flag. -/
def Obligations.Additions : Prop :=
  ∀ (s : State) (r : Reg) (imm : Byte) (rop : RelOperand) (op : AbsOperand),
    (Completes (.addz r) s fun t => Sums (s.reg .r0) (s.reg r) (carryIn s) (t.reg .r0) t ∧
      CCShows (t.reg .r0).toInt t.cc ∧ Frame { regs := [.r0], psl := arithBits } s t) ∧
    (Completes (.addi r imm) s fun t => Sums (s.reg r) imm (carryIn s) (t.reg r) t ∧
      CCShows (t.reg r).toInt t.cc ∧ Frame { regs := [physOf s.rs r], psl := arithBits } s t) ∧
    (Completes (.addr r rop) s fun t =>
      Sums (s.reg r) (s.memRead .data (s.relAddress rop)) (carryIn s) (t.reg r) t ∧
      CCShows (t.reg r).toInt t.cc ∧
      Frame { regs := [physOf s.rs r], psl := arithBits } (s.record (s.relByteReads rop)) t) ∧
    (Completes (.adda r op) s fun t =>
      Sums ((s.adjustIndex r op.ic).reg (dataReg r op.ic))
        ((s.adjustIndex r op.ic).memRead .data ((s.adjustIndex r op.ic).absAddress r op)) (carryIn s)
        (t.reg (dataReg r op.ic)) t ∧
      CCShows (t.reg (dataReg r op.ic)).toInt t.cc ∧
      (dataReg r op.ic ≠ r → t.reg r = (s.adjustIndex r op.ic).reg r) ∧
      Frame { regs := [physOf s.rs (dataReg r op.ic), physOf s.rs r], psl := arithBits }
        (s.record ((s.adjustIndex r op.ic).absByteReads r op)) t)

/-- R142, R164 to R167 (D36, log 30; addresses: D3 to D8, log 9, 19, 24, 25): the difference into the register, C and IDC
one where nothing is borrowed, OVF on signed overflow, CC from the value; indexed as for the additions. -/
def Obligations.Subtractions : Prop :=
  ∀ (s : State) (r : Reg) (imm : Byte) (rop : RelOperand) (op : AbsOperand),
    (Completes (.subz r) s fun t => Subtracts (s.reg .r0) (s.reg r) (borrowIn s) (t.reg .r0) t ∧
      CCShows (t.reg .r0).toInt t.cc ∧ Frame { regs := [.r0], psl := arithBits } s t) ∧
    (Completes (.subi r imm) s fun t => Subtracts (s.reg r) imm (borrowIn s) (t.reg r) t ∧
      CCShows (t.reg r).toInt t.cc ∧ Frame { regs := [physOf s.rs r], psl := arithBits } s t) ∧
    (Completes (.subr r rop) s fun t =>
      Subtracts (s.reg r) (s.memRead .data (s.relAddress rop)) (borrowIn s) (t.reg r) t ∧
      CCShows (t.reg r).toInt t.cc ∧
      Frame { regs := [physOf s.rs r], psl := arithBits } (s.record (s.relByteReads rop)) t) ∧
    (Completes (.suba r op) s fun t =>
      Subtracts ((s.adjustIndex r op.ic).reg (dataReg r op.ic))
        ((s.adjustIndex r op.ic).memRead .data ((s.adjustIndex r op.ic).absAddress r op)) (borrowIn s)
        (t.reg (dataReg r op.ic)) t ∧
      CCShows (t.reg (dataReg r op.ic)).toInt t.cc ∧
      (dataReg r op.ic ≠ r → t.reg r = (s.adjustIndex r op.ic).reg r) ∧
      Frame { regs := [physOf s.rs (dataReg r op.ic), physOf s.rs r], psl := arithBits }
        (s.record ((s.adjustIndex r op.ic).absByteReads r op)) t)

/-- R213 (C12, D26, log 31): the source's packed-BCD recipes. With WC = 0 and two decimal digits in each term, `addi 66h`,
`addi`, `dar` give the decimal sum with its carry in C, and `subi`, `dar` the decimal difference with C = 0 for a borrow. -/
def Obligations.DecimalRecipes : Prop :=
  ∀ (s : State) (r : Reg) (b : Byte), s.wc = false → isBcd (s.reg r) → isBcd b →
    (CompletesAll [.addi r 0x66#8, .addi r b, .dar r] s fun t =>
      isBcd (t.reg r) ∧ bcdValue (t.reg r) + 100 * t.carry.toNat = bcdValue (s.reg r) + bcdValue b) ∧
    (CompletesAll [.subi r b, .dar r] s fun t =>
      isBcd (t.reg r) ∧ bcdValue (t.reg r) + bcdValue b = bcdValue (s.reg r) + 100 * (1 - t.carry.toNat))

/-! ## Stores and compares -/

/-- R168: `strz` copies R0 to `x[r]`, r = 1..3, and sets CC from it; there is no `strz,r0`, and C0h is `nop`. -/
def Obligations.StoreToRegister : Prop :=
  (∀ (s : State) (r : Reg), r ≠ .r0 →
    EncodedAs (.strz r) [0xC0#8 + r.bits.setWidth 8] ∧ Completes (.strz r) s (Loads r (s.reg .r0) s)) ∧
  ¬ WellFormed (.strz .r0) ∧ EncodedAs .nop [0xC0#8]

/-- R65, R169, R170, R282, R283 (C6, C7, D3 to D7, D23, log 19, 20, 24, 25, 32): the stores write `x[r]`, or R0 when
indexed, at the effective address, adjust the index register first, and change no flag and no other byte of memory. What the
platform does with the byte is its map's (D29, log 8): RAM holds it, ROM and unmapped addresses ignore it, a device is
handed it (log 9). -/
def Obligations.StoresToMemory : Prop :=
  ∀ (s : State) (r : Reg) (rop : RelOperand) (aop : AbsOperand) (a : Word),
    Completes (.strr r rop) s (Stores (s.relAddress rop) (s.reg r) [] (s.record (s.relReads rop))) ∧
    (Completes (.stra r aop) s fun t =>
      Stores ((s.adjustIndex r aop.ic).absAddress r aop) ((s.adjustIndex r aop.ic).reg (dataReg r aop.ic))
        [physOf s.rs r] (s.record ((s.adjustIndex r aop.ic).absReads aop)) t ∧
      t.reg r = (s.adjustIndex r aop.ic).reg r) ∧
    Completes (.strf r a) s (Stores a (s.reg r) [] s) ∧
    Completes (.stfi r a) s (Stores (s.ptr16 .flat a) (s.reg r) [] (s.record (s.ptr16Reads .flat a)))

/-- R143, R171, R172: `comz` compares R0 with `x[r]` and `comi` `x[r]` with the immediate, signed or unsigned by COM; only
CC is written. -/
def Obligations.ComparesWithRegister : Prop :=
  ∀ (s : State) (r : Reg) (imm : Byte),
    EncodedAs (.comz r) [0xE0#8 + r.bits.setWidth 8] ∧
    Completes (.comz r) s (Compares (s.reg .r0) (s.reg r) [] s) ∧
    EncodedAs (.comi r imm) [0xE4#8 + r.bits.setWidth 8, imm] ∧
    Completes (.comi r imm) s (Compares (s.reg r) imm [] s)

/-- R143, R173, R174 (D3 to D7, log 9, 19, 24, 25): the compares with a byte of memory; indexed, R0 is compared and the
index register adjusted. -/
def Obligations.ComparesWithMemory : Prop :=
  ∀ (s : State) (r : Reg) (rop : RelOperand) (aop : AbsOperand),
    Completes (.comr r rop) s
      (Compares (s.reg r) (s.memRead .data (s.relAddress rop)) [] (s.record (s.relByteReads rop))) ∧
    (Completes (.coma r aop) s fun t =>
      Compares ((s.adjustIndex r aop.ic).reg (dataReg r aop.ic))
        ((s.adjustIndex r aop.ic).memRead .data ((s.adjustIndex r aop.ic).absAddress r aop)) [physOf s.rs r]
        (s.record ((s.adjustIndex r aop.ic).absByteReads r aop)) t ∧
      t.reg r = (s.adjustIndex r aop.ic).reg r)

/-! ## Branches -/

/-- R127, R180, R181, R183, R185, R187, R189, R191 (D3, D4, log 24, 25; SP wraps: D10, log 26): the relative branches. A
branch not taken reads no pointer (R76, D22, log 33). -/
def Obligations.RelativeBranches : Prop :=
  ∀ (s : State) (m : Cond) (r : Reg) (op : RelOperand),
    Completes (.bctr m op) s (Branches (Holds m s) false (s.relAddress op) (s.relReads op) s) ∧
    Completes (.bstr m op) s (Branches (Holds m s) true (s.relAddress op) (s.relReads op) s) ∧
    Completes (.brnr r op) s (Branches (s.reg r ≠ 0#8) false (s.relAddress op) (s.relReads op) s) ∧
    Completes (.bsnr r op) s (Branches (s.reg r ≠ 0#8) true (s.relAddress op) (s.relReads op) s) ∧
    (m ≠ .un → Completes (.bcfr m op) s (Branches (s.cc ≠ m.bits) false (s.relAddress op) (s.relReads op) s) ∧
      Completes (.bsfr m op) s (Branches (s.cc ≠ m.bits) true (s.relAddress op) (s.relReads op) s))

/-- R115, R127, R180, R182, R184, R186, R188, R190, R192 (C11, D27, log 40), R285, R287, R289: the absolute branches, and
the far branches with link (SP wraps: D10, log 26). A branch not taken reads no pointer (R76, D22, log 33). -/
def Obligations.AbsoluteAndFarLinkBranches : Prop :=
  ∀ (s : State) (m : Cond) (r : Reg) (op : BranchOperand) (a : Word),
    Completes (.bcta m op) s (Branches (Holds m s) false (s.branchAddress op) (s.branchReads op) s) ∧
    Completes (.bsta m op) s (Branches (Holds m s) true (s.branchAddress op) (s.branchReads op) s) ∧
    Completes (.bstf m a) s (Branches (Holds m s) true a [] s) ∧
    Completes (.brna r op) s (Branches (s.reg r ≠ 0#8) false (s.branchAddress op) (s.branchReads op) s) ∧
    Completes (.bsna r op) s (Branches (s.reg r ≠ 0#8) true (s.branchAddress op) (s.branchReads op) s) ∧
    Completes (.bsnf r a) s (Branches (s.reg r ≠ 0#8) true a [] s) ∧
    (m ≠ .un → Completes (.bcfa m op) s (Branches (s.cc ≠ m.bits) false (s.branchAddress op) (s.branchReads op) s) ∧
      Completes (.bsfa m op) s (Branches (s.cc ≠ m.bits) true (s.branchAddress op) (s.branchReads op) s) ∧
      Completes (.bsff m a) s (Branches (s.cc ≠ m.bits) true a [] s))

/-- R284, R286, R288: the far branches without link go to the 16-bit address; `bcff` has no mask `un`, whose cell is
`bxf`. -/
def Obligations.FarBranches : Prop :=
  ∀ (s : State) (m : Cond) (r : Reg) (a : Word),
    EncodedAs (.bctf m a) [0xB7#8, 0x1C#8 + m.bits.setWidth 8, a.extractLsb' 8 8, a.extractLsb' 0 8] ∧
    Completes (.bctf m a) s (Branches (Holds m s) false a [] s) ∧
    EncodedAs (.brnf r a) [0xB7#8, 0x5C#8 + r.bits.setWidth 8, a.extractLsb' 8 8, a.extractLsb' 0 8] ∧
    Completes (.brnf r a) s (Branches (s.reg r ≠ 0#8) false a [] s) ∧
    (m ≠ .un →
      EncodedAs (.bcff m a) [0xB7#8, 0x9C#8 + m.bits.setWidth 8, a.extractLsb' 8 8, a.extractLsb' 0 8] ∧
      Completes (.bcff m a) s (Branches (s.cc ≠ m.bits) false a [] s)) ∧
    ¬ WellFormed (.bcff .un a) ∧ EncodedAs (.bxf a) [0xB7#8, 0x9F#8, a.extractLsb' 8 8, a.extractLsb' 0 8]

/-- R193 to R196, R290, R291 (D3, D4, C8, log 24, 25): the register is counted up or down by one, modulo 256, and no flag is
set; the branch is taken if, and only if, the new value is not zero; one not taken reads no pointer (R76, D22, log 33). -/
def Obligations.CountingBranches : Prop :=
  ∀ (s : State) (r : Reg) (rop : RelOperand) (bop : BranchOperand) (a : Word),
    Completes (.birr r rop) s (Branches ((s.reg r).toNat ≠ 255) false (s.relAddress rop) (s.relReads rop)
      (s.setReg r (s.reg r + 1#8))) ∧
    Completes (.bira r bop) s (Branches ((s.reg r).toNat ≠ 255) false (s.branchAddress bop) (s.branchReads bop)
      (s.setReg r (s.reg r + 1#8))) ∧
    Completes (.birf r a) s (Branches ((s.reg r).toNat ≠ 255) false a [] (s.setReg r (s.reg r + 1#8))) ∧
    Completes (.bdrr r rop) s (Branches ((s.reg r).toNat ≠ 1) false (s.relAddress rop) (s.relReads rop)
      (s.setReg r (s.reg r - 1#8))) ∧
    Completes (.bdra r bop) s (Branches ((s.reg r).toNat ≠ 1) false (s.branchAddress bop) (s.branchReads bop)
      (s.setReg r (s.reg r - 1#8))) ∧
    Completes (.bdrf r a) s (Branches ((s.reg r).toNat ≠ 1) false a [] (s.setReg r (s.reg r - 1#8)))

/-- R250 to R253, R292, R293 (C3, D9, N16, log 25, 32, 41): the zero-relative and indexed branches are always taken; no flag
changes. SP wraps modulo 16 (D10, log 26); the R3 of the indexed ones is that of the current bank (D21, log 23). -/
def Obligations.ZeroAndIndexedBranches : Prop :=
  ∀ (s : State) (rop : RelOperand) (bop : BranchOperand) (a : Word),
    Completes (.zbrr rop) s (Branches True false (s.zeroAddress rop) (s.zeroReads rop) s) ∧
    Completes (.zbsr rop) s (Branches True true (s.zeroAddress rop) (s.zeroReads rop) s) ∧
    Completes (.bxa bop) s (Branches True false (s.indexedBranchAddress bop) (s.branchReads bop) s) ∧
    Completes (.bsxa bop) s (Branches True true (s.indexedBranchAddress bop) (s.branchReads bop) s) ∧
    Completes (.bxf a) s (Branches True false (s.farIndexedAddress a) [] s) ∧
    Completes (.bsxf a) s (Branches True true (s.farIndexedAddress a) [] s)

/-- R197, R198, R28 (SP wraps: D10, log 26): if the condition holds the returns load IP from the entry below SP and lower
SP, and `rete` clears II; if not, nothing changes. -/
def Obligations.Returns : Prop :=
  ∀ (s : State) (m : Cond),
    (Completes (.retc m) s fun t =>
      (Holds m s → t.ip = s.stackAt (s.sp - 1#4) ∧ t.sp = s.sp - 1#4 ∧ Frame { ip := true, psu := spBits } s t) ∧
      (¬ Holds m s → t = s)) ∧
    (Completes (.rete m) s fun t =>
      (Holds m s → t.ip = s.stackAt (s.sp - 1#4) ∧ t.sp = s.sp - 1#4 ∧ t.ii = false ∧
        Frame { ip := true, psu := 5 :: spBits } s t) ∧
      (¬ Holds m s → t = s))

/-! ## Rotates and decimal adjust -/

/-- R210, R211, R212: with WC = 0 the rotates go around eight bits and leave C and IDC; with WC = 1 they go through C, and
IDC is bit 5 of the result; OVF is unchanged (C9, D25, log 22). `dar` adds ten to the high digit if C = 0 and to the low
digit if IDC = 0, each modulo 16 (C12, D26, log 31), and changes no flag. -/
def Obligations.RotatesAndDecimalAdjust : Prop :=
  ∀ (s : State) (r : Reg),
    (Completes (.rrr r) s fun t =>
      (∀ k, k < 7 → (t.reg r).getLsbD k = (s.reg r).getLsbD (k + 1)) ∧
      (t.reg r).getLsbD 7 = (if s.wc then s.carry else (s.reg r).getLsbD 0) ∧
      CCShows (t.reg r).toInt t.cc ∧
      (s.wc = true → t.carry = (s.reg r).getLsbD 0 ∧ t.idc = (s.reg r).getLsbD 6) ∧
      Frame { regs := [physOf s.rs r], psl := if s.wc then [7, 6, 5, 0] else ccBits } s t) ∧
    (Completes (.rrl r) s fun t =>
      (∀ k, k < 7 → (t.reg r).getLsbD (k + 1) = (s.reg r).getLsbD k) ∧
      (t.reg r).getLsbD 0 = (if s.wc then s.carry else (s.reg r).getLsbD 7) ∧
      CCShows (t.reg r).toInt t.cc ∧
      (s.wc = true → t.carry = (s.reg r).getLsbD 7 ∧ t.idc = (s.reg r).getLsbD 4) ∧
      Frame { regs := [physOf s.rs r], psl := if s.wc then [7, 6, 5, 0] else ccBits } s t) ∧
    (Completes (.dar r) s fun t =>
      (t.reg r).toNat / 16 = ((s.reg r).toNat / 16 + if s.carry then 0 else 10) % 16 ∧
      (t.reg r).toNat % 16 = ((s.reg r).toNat % 16 + if s.idc then 0 else 10) % 16 ∧
      Frame { regs := [physOf s.rs r] } s t)

/-! ## Input and output -/

/-- R220 to R225 (the record, and that the byte read is any value: D30, log 12): each I/O write makes one transaction with
the register's value and changes nothing else; each I/O read makes one, writes the byte received into the register, sets CC
from it, and changes nothing else. -/
def Obligations.InputAndOutput : Prop :=
  ∀ (s : State) (r : Reg) (a : Byte),
    Completes (.wrtc r) s (Transacts (.ioWrite .ctrl (s.reg r)) {} s) ∧
    Completes (.wrtd r) s (Transacts (.ioWrite .data (s.reg r)) {} s) ∧
    Completes (.wrte r a) s (Transacts (.ioWrite (.ext a) (s.reg r)) {} s) ∧
    (Completes (.redc r) s fun t => CCShows (t.reg r).toInt t.cc ∧
      Transacts (.ioRead .ctrl (t.reg r)) { regs := [physOf s.rs r], psl := ccBits } s t) ∧
    (Completes (.redd r) s fun t => CCShows (t.reg r).toInt t.cc ∧
      Transacts (.ioRead .data (t.reg r)) { regs := [physOf s.rs r], psl := ccBits } s t) ∧
    (Completes (.rede r a) s fun t => CCShows (t.reg r).toInt t.cc ∧
      Transacts (.ioRead (.ext a) (t.reg r)) { regs := [physOf s.rs r], psl := ccBits } s t)

/-! ## Status -/

/-- R230, R239, R31 (C1, C4, D12, log 11, 28): a read of PSU has the Sense level of this instruction in bit 7 and the stored
bits 6:0; `spsu` copies it into R0 and sets CC from it; `tpsu` tests it under the mask, and mask 80h alone reads Sense into
CC. -/
def Obligations.PsuReads : Prop :=
  ∀ (s : State) (mask : Byte),
    s.psuRead.getLsbD 7 = Config.senseLevel s.draws ∧ (∀ k, k < 7 → s.psuRead.getLsbD k = s.psu.getLsbD k) ∧
    Completes .spsu s (Loads .r0 s.psuRead s) ∧
    Completes (.tpsu mask) s (Tests s.psuRead mask s) ∧
    (Completes (.tpsu 0x80#8) s fun t => t.cc = if Config.senseLevel s.draws then 0#2 else 2#2)

/-- R231, R233, R236, R238: `spsl` copies PSL as it was into R0 and then sets CC from it; `lpsl` loads all eight bits of PSL
from R0, `cpsl` clears and `ppsl` sets those the mask selects, and nothing else changes. -/
def Obligations.PslCopiesAndMasks : Prop :=
  ∀ (s : State) (mask : Byte),
    EncodedAs .spsl [0x13#8] ∧ Completes .spsl s (Loads .r0 s.psl s) ∧
    EncodedAs .lpsl [0x93#8] ∧
    (Completes .lpsl s fun t => t.psl = s.r0 ∧ Frame { psl := [7, 6, 5, 4, 3, 2, 1, 0] } s t) ∧
    EncodedAs (.cpsl mask) [0x75#8, mask] ∧
    (Completes (.cpsl mask) s fun t =>
      (∀ k, k < 8 → t.psl.getLsbD k = (s.psl.getLsbD k && !mask.getLsbD k)) ∧
      Frame { psl := [7, 6, 5, 4, 3, 2, 1, 0] } s t) ∧
    EncodedAs (.ppsl mask) [0x77#8, mask] ∧
    (Completes (.ppsl mask) s fun t =>
      (∀ k, k < 8 → t.psl.getLsbD k = (s.psl.getLsbD k || mask.getLsbD k)) ∧
      Frame { psl := [7, 6, 5, 4, 3, 2, 1, 0] } s t)

/-- R232, R235, R237, R31 (D12, log 28): `lpsu`, `cpsu` and `ppsu` do the same to PSU bits 6:0; bit 7 has no storage. -/
def Obligations.PsuWriters : Prop :=
  ∀ (s : State) (mask : Byte),
    (Completes .lpsu s fun t => (∀ k, k < 7 → t.psu.getLsbD k = s.r0.getLsbD k) ∧ t.psu.getLsbD 7 = false ∧
      Frame { psu := [7, 6, 5, 4, 3, 2, 1, 0] } s t) ∧
    (Completes (.cpsu mask) s fun t =>
      (∀ k, k < 7 → t.psu.getLsbD k = (s.psu.getLsbD k && !mask.getLsbD k)) ∧ t.psu.getLsbD 7 = false ∧
      Frame { psu := [7, 6, 5, 4, 3, 2, 1, 0] } s t) ∧
    (Completes (.ppsu mask) s fun t =>
      (∀ k, k < 7 → t.psu.getLsbD k = (s.psu.getLsbD k || mask.getLsbD k)) ∧ t.psu.getLsbD 7 = false ∧
      Frame { psu := [7, 6, 5, 4, 3, 2, 1, 0] } s t)

/-- R240, R242: `tpsl` tests PSL as it was before the instruction, `tmi` a register: CC is 00 if every bit the mask selects
is one, else 10. -/
def Obligations.TestsUnderMask : Prop :=
  ∀ (s : State) (r : Reg) (mask : Byte),
    EncodedAs (.tpsl mask) [0xB5#8, mask] ∧ Completes (.tpsl mask) s (Tests s.psl mask s) ∧
    EncodedAs (.tmi r mask) [0xF4#8 + r.bits.setWidth 8, mask] ∧ Completes (.tmi r mask) s (Tests (s.reg r) mask s)

/-! ## Extended instructions -/

/-- R260, R261, R28 (D10, D21, log 23, 26): `push` writes R1:R0 into the entry at SP and `pop` takes the entry below SP into
R1:R0, and neither sets a flag. -/
def Obligations.PushAndPop : Prop :=
  ∀ s : State,
    (Completes .push s fun t =>
      (t.stackAt s.sp).toNat = 256 * (s.reg .r1).toNat + (s.reg .r0).toNat ∧ t.sp = s.sp + 1#4 ∧
      Frame { stack := [s.sp], psu := spBits } s t) ∧
    (Completes .pop s fun t =>
      256 * (t.reg .r1).toNat + (t.reg .r0).toNat = (s.stackAt (s.sp - 1#4)).toNat ∧ t.sp = s.sp - 1#4 ∧
      Frame { regs := [.r0, physOf s.rs .r1], psu := spBits } s t)

/-- R262 (D18, log 29): `mul` writes the exact product of R0 and R1, the R1 of the current bank (D21, log 23), into R1:R0
and sets CC from all 16 bits. R267 (C5, log 21): `cpl` complements every bit of a register and sets no flag. -/
def Obligations.MultiplyAndComplement : Prop :=
  ∀ (s : State) (r : Reg),
    (Completes .mul s fun t =>
      256 * (t.reg .r1).toNat + (t.reg .r0).toNat = (s.reg .r0).toNat * (s.reg .r1).toNat ∧
      CCShows (BitVec.ofNat 16 ((s.reg .r0).toNat * (s.reg .r1).toNat)).toInt t.cc ∧
      Frame { regs := [.r0, physOf s.rs .r1], psl := ccBits } s t) ∧
    (Completes (.cpl r) s fun t =>
      (∀ k, k < 8 → (t.reg r).getLsbD k = !(s.reg r).getLsbD k) ∧ Frame { regs := [physOf s.rs r] } s t)

/-- R263, R264, R271: `xchg` exchanges R0 and R1, `clr` clears a register, neither sets a flag; `svb` sets IVB from R1, the
high half of R0, and four zeros. Their R1 is that of the current bank (D21, log 23). -/
def Obligations.ExchangeClearVectorBase : Prop :=
  ∀ (s : State) (r : Reg),
    EncodedAs .xchg [0x91#8] ∧
    (Completes .xchg s fun t => t.reg .r0 = s.reg .r1 ∧ t.reg .r1 = s.reg .r0 ∧
      Frame { regs := [.r0, physOf s.rs .r1] } s t) ∧
    EncodedAs (.clr r) [0xC4#8 + r.bits.setWidth 8] ∧
    (Completes (.clr r) s fun t => t.reg r = 0x00#8 ∧ Frame { regs := [physOf s.rs r] } s t) ∧
    EncodedAs .svb [0xB7#8, 0x12#8] ∧
    (Completes .svb s fun t =>
      t.ivb.toNat = 256 * (s.reg .r1).toNat + (s.reg .r0).toNat / 16 * 16 ∧ Frame { ivb := true } s t)

/-! ## Reads at devices -/

/-- R67, R76, R118, R306 (D22, D29, log 8, 9, 33): which reads are made, and in which order. A read at a device address is
recorded, and at any other address nothing is; the reads of a pointer are its two bytes, high first, the second at the next
address inside the page for these modes, which is the default of the open parameter PTR_WRAP (D5, log 19); a direct address
reads nothing; an operand's byte is read after its pointer; the fetch reads a byte and moves on; taking an interrupt makes
the reads of IRQ_TARGET, one byte at each of its addresses (R306, log 15). A branch not taken reads nothing: the statements
about the branches say so. -/
def Obligations.DeviceReads : Prop :=
  ∀ (s : State) (k : MemAccess) (a : Word) (kind : PtrKind) (r : Reg) (rop : RelOperand) (op : AbsOperand)
    (bop : BranchOperand) (src : IrqSource) (reads : List Transaction),
    (s.mapKind a = some .device → s.memReads k a = [.deviceRead a (s.memRead k a)]) ∧
    (s.mapKind a ≠ some .device → s.memReads k a = []) ∧
    s.ptr16Reads kind a = s.memReads .pointerHigh a ++ s.memReads .pointerLow (pointerSecond kind a) ∧
    (s.relReads rop = if rop.ind then s.ptr16Reads .page (s.relAddress ⟨false, rop.disp⟩) else []) ∧
    (s.zeroReads rop = if rop.ind then s.ptr16Reads .page (s.zeroAddress ⟨false, rop.disp⟩) else []) ∧
    (s.absReads op = if op.ind then s.ptr16Reads .page (s.absAddress r ⟨false, .none, op.addr⟩) else []) ∧
    (s.branchReads bop = if bop.ind then s.ptr16Reads .page (s.branchAddress ⟨false, bop.addr⟩) else []) ∧
    s.relByteReads rop = s.relReads rop ++ s.memReads .data (s.relAddress rop) ∧
    s.absByteReads r op = s.absReads op ++ s.memReads .data (s.absAddress r op) ∧
    s.advance = (s.record (s.memReads .fetch s.ip)).setIp (nextInPage s.ip) ∧
    s.vectorReads src = (Config.irqVector s.ivb src).zipIdx.flatMap (fun p => s.memReads (.vector p.2) p.1) ∧
    (s.record reads).trace = s.trace ++ reads ∧ Frame { trace := true } s (s.record reads)
end

