-- ==== Sys2Proof/Laws/Operands.lean ====
section
/-! SUPPORT. The operand bytes and the operands they stand for are one another's inverses (spec/30_encoding.md R105 to R108). -/

namespace Sys2Proof

/-- A slice of a value put together from two parts. -/
theorem append_extractLow {m n : Nat} (x : BitVec m) (y : BitVec n) : (x ++ y).extractLsb' 0 n = y := by
  apply BitVec.eq_of_getLsbD_eq
  intro i hi
  rw [BitVec.getLsbD_extractLsb', Nat.zero_add, decide_eq_true hi, Bool.true_and]
  exact BitVec.getLsbD_append.trans (if_pos hi)

theorem append_extractHigh {m n : Nat} (x : BitVec m) (y : BitVec n) : (x ++ y).extractLsb' n m = x := by
  apply BitVec.eq_of_getLsbD_eq
  intro i hi
  rw [BitVec.getLsbD_extractLsb', decide_eq_true hi, Bool.true_and]
  refine BitVec.getLsbD_append.trans ?_
  rw [if_neg (by omega), Nat.add_sub_cancel_left]

/-- A value put together from its two parts. -/
theorem extract_append {m n : Nat} (v : BitVec (m + n)) : v.extractLsb' n m ++ v.extractLsb' 0 n = v := by
  apply BitVec.eq_of_getLsbD_eq
  intro i hi
  refine BitVec.getLsbD_append.trans ?_
  by_cases h : i < n
  · rw [if_pos h, BitVec.getLsbD_extractLsb', Nat.zero_add, decide_eq_true h, Bool.true_and]
  · have h' : i - n < m := by omega
    rw [if_neg h, BitVec.getLsbD_extractLsb', decide_eq_true h', Bool.true_and, Nat.add_sub_cancel' (Nat.le_of_not_lt h)]

@[simp] theorem farAddress_bytes (a : Word) : farAddress (farHigh a) (farLow a) = a := extract_append (m := 8) (n := 8) a

@[simp] theorem farHigh_farAddress (b1 b2 : Byte) : farHigh (farAddress b1 b2) = b1 := append_extractHigh b1 b2

@[simp] theorem farLow_farAddress (b1 b2 : Byte) : farLow (farAddress b1 b2) = b2 := append_extractLow b1 b2

@[simp] theorem RelOperand.ofByte_toByte (op : RelOperand) : RelOperand.ofByte op.toByte = op := by
  obtain ⟨i, d⟩ := op
  revert i d
  decide

@[simp] theorem RelOperand.toByte_ofByte (b : Byte) : (RelOperand.ofByte b).toByte = b := by
  revert b
  decide

theorem IndexControl.ofBits_bits (ic : IndexControl) : IndexControl.ofBits ic.bits = ic := by
  cases ic <;> rfl

theorem IndexControl.bits_ofBits (f : BitVec 2) : (IndexControl.ofBits f).bits = f := by
  revert f
  decide

/-- The first address byte of the absolute format, field by field (R106). -/
theorem absHigh_fields (i : Bool) (x : BitVec 2) (h : BitVec 5) :
    BitVec.getLsbD (w := 8) ((BitVec.ofBool i ++ x) ++ h) 7 = i ∧
      BitVec.extractLsb' (n := 8) 5 2 ((BitVec.ofBool i ++ x) ++ h) = x ∧
      BitVec.extractLsb' (n := 8) 0 5 ((BitVec.ofBool i ++ x) ++ h) = h := by
  revert i x h
  decide

@[simp] theorem AbsOperand.ofBytes_bytes (op : AbsOperand) : AbsOperand.ofBytes op.highByte op.lowByte = op := by
  obtain ⟨i, ic, a⟩ := op
  obtain ⟨h1, h2, h3⟩ := absHigh_fields i ic.bits (a.extractLsb' 8 5)
  unfold AbsOperand.ofBytes AbsOperand.highByte AbsOperand.lowByte
  rw [h1, h2, h3, IndexControl.ofBits_bits, extract_append (m := 5) (n := 8) a]

@[simp] theorem AbsOperand.highByte_ofBytes (b1 b2 : Byte) : (AbsOperand.ofBytes b1 b2).highByte = b1 := by
  have h : (b1.extractLsb' 0 5 ++ b2).extractLsb' 8 5 = b1.extractLsb' 0 5 := append_extractHigh _ _
  unfold AbsOperand.ofBytes AbsOperand.highByte
  simp only [h, IndexControl.bits_ofBits]
  clear h
  revert b1
  decide

@[simp] theorem AbsOperand.lowByte_ofBytes (b1 b2 : Byte) : (AbsOperand.ofBytes b1 b2).lowByte = b2 :=
  append_extractLow (b1.extractLsb' 0 5) b2

/-- The first address byte of the absolute branch format, field by field (R107). -/
theorem branchHigh_fields (i : Bool) (h : BitVec 7) :
    BitVec.getLsbD (w := 8) (BitVec.ofBool i ++ h) 7 = i ∧ BitVec.extractLsb' (n := 8) 0 7 (BitVec.ofBool i ++ h) = h := by
  revert i h
  decide

@[simp] theorem BranchOperand.ofBytes_bytes (op : BranchOperand) : BranchOperand.ofBytes op.highByte op.lowByte = op := by
  obtain ⟨i, a⟩ := op
  obtain ⟨h1, h2⟩ := branchHigh_fields i (a.extractLsb' 8 7)
  unfold BranchOperand.ofBytes BranchOperand.highByte BranchOperand.lowByte
  rw [h1, h2, extract_append (m := 7) (n := 8) a]

@[simp] theorem BranchOperand.highByte_ofBytes (b1 b2 : Byte) : (BranchOperand.ofBytes b1 b2).highByte = b1 := by
  have h : (b1.extractLsb' 0 7 ++ b2).extractLsb' 8 7 = b1.extractLsb' 0 7 := append_extractHigh _ _
  unfold BranchOperand.ofBytes BranchOperand.highByte
  simp only [h]
  clear h
  revert b1
  decide

@[simp] theorem BranchOperand.lowByte_ofBytes (b1 b2 : Byte) : (BranchOperand.ofBytes b1 b2).lowByte = b2 :=
  append_extractLow (b1.extractLsb' 0 7) b2

/-- The 2-bit field of an opcode byte and the register or condition it names (R111). -/
theorem Reg.ofBits_bits (r : Reg) : Reg.ofBits r.bits = r := by cases r <;> rfl

theorem Reg.bits_ofBits (f : BitVec 2) : (Reg.ofBits f).bits = f := by revert f; decide

theorem Cond.ofBits_bits (m : Cond) : Cond.ofBits m.bits = m := by cases m <;> rfl

theorem Cond.bits_ofBits (f : BitVec 2) : (Cond.ofBits f).bits = f := by revert f; decide

end Sys2Proof
end

