-- ==== Sys2Proof/Laws/State.lean ====
section
/-! SUPPORT. The small lemmas of State: for each update, what it leaves in each field and what each accessor reads after it.
All are true by rfl, but for those over `setPhys` and `memWrite`, which take a case split. -/

namespace Sys2Proof.Machine

/-! ## setPsl -/

@[simp] theorem State.setPsl_r0 (s : State) (v : Byte) : (s.setPsl v).r0 = s.r0 := rfl
@[simp] theorem State.setPsl_r1 (s : State) (v : Byte) : (s.setPsl v).r1 = s.r1 := rfl
@[simp] theorem State.setPsl_r2 (s : State) (v : Byte) : (s.setPsl v).r2 = s.r2 := rfl
@[simp] theorem State.setPsl_r3 (s : State) (v : Byte) : (s.setPsl v).r3 = s.r3 := rfl
@[simp] theorem State.setPsl_r1b (s : State) (v : Byte) : (s.setPsl v).r1b = s.r1b := rfl
@[simp] theorem State.setPsl_r2b (s : State) (v : Byte) : (s.setPsl v).r2b = s.r2b := rfl
@[simp] theorem State.setPsl_r3b (s : State) (v : Byte) : (s.setPsl v).r3b = s.r3b := rfl
@[simp] theorem State.setPsl_stack (s : State) (v : Byte) : (s.setPsl v).stack = s.stack := rfl
@[simp] theorem State.setPsl_ip (s : State) (v : Byte) : (s.setPsl v).ip = s.ip := rfl
@[simp] theorem State.setPsl_psu (s : State) (v : Byte) : (s.setPsl v).psu = s.psu := rfl
@[simp] theorem State.setPsl_psl (s : State) (v : Byte) : (s.setPsl v).psl = v := rfl
@[simp] theorem State.setPsl_ivb (s : State) (v : Byte) : (s.setPsl v).ivb = s.ivb := rfl
@[simp] theorem State.setPsl_trapp (s : State) (v : Byte) : (s.setPsl v).trapp = s.trapp := rfl
@[simp] theorem State.setPsl_halted (s : State) (v : Byte) : (s.setPsl v).halted = s.halted := rfl
@[simp] theorem State.setPsl_irqPending (s : State) (v : Byte) : (s.setPsl v).irqPending = s.irqPending := rfl
@[simp] theorem State.setPsl_mem (s : State) (v : Byte) : (s.setPsl v).mem = s.mem := rfl
@[simp] theorem State.setPsl_memMap (s : State) (v : Byte) : (s.setPsl v).memMap = s.memMap := rfl
@[simp] theorem State.setPsl_trace (s : State) (v : Byte) : (s.setPsl v).trace = s.trace := rfl
@[simp] theorem State.setPsl_draws (s : State) (v : Byte) : (s.setPsl v).draws = s.draws := rfl
@[simp] theorem State.setPsl_phys (s : State) (v : Byte) (p : PhysReg) : (s.setPsl v).phys p = s.phys p := by cases p <;> rfl
@[simp] theorem State.setPsl_sp (s : State) (v : Byte) : (s.setPsl v).sp = s.sp := rfl
@[simp] theorem State.setPsl_ii (s : State) (v : Byte) : (s.setPsl v).ii = s.ii := rfl
@[simp] theorem State.setPsl_flagOut (s : State) (v : Byte) : (s.setPsl v).flagOut = s.flagOut := rfl
@[simp] theorem State.setPsl_page (s : State) (v : Byte) : (s.setPsl v).page = s.page := rfl
@[simp] theorem State.setPsl_pc (s : State) (v : Byte) : (s.setPsl v).pc = s.pc := rfl
@[simp] theorem State.setPsl_stackAt (s : State) (v : Byte) (j : BitVec 4) : (s.setPsl v).stackAt j = s.stackAt j := rfl
@[simp] theorem State.setPsl_byteAt (s : State) (v : Byte) (a : Word) : (s.setPsl v).byteAt a = s.byteAt a := rfl
@[simp] theorem State.setPsl_mapKind (s : State) (v : Byte) (a : Word) : (s.setPsl v).mapKind a = s.mapKind a := rfl
@[simp] theorem State.setPsl_memRead (s : State) (v : Byte) (k' : MemAccess) (a : Word) : (s.setPsl v).memRead k' a = s.memRead k' a := rfl

/-! ## setCarry -/

@[simp] theorem State.setCarry_r0 (s : State) (v : Bool) : (s.setCarry v).r0 = s.r0 := rfl
@[simp] theorem State.setCarry_r1 (s : State) (v : Bool) : (s.setCarry v).r1 = s.r1 := rfl
@[simp] theorem State.setCarry_r2 (s : State) (v : Bool) : (s.setCarry v).r2 = s.r2 := rfl
@[simp] theorem State.setCarry_r3 (s : State) (v : Bool) : (s.setCarry v).r3 = s.r3 := rfl
@[simp] theorem State.setCarry_r1b (s : State) (v : Bool) : (s.setCarry v).r1b = s.r1b := rfl
@[simp] theorem State.setCarry_r2b (s : State) (v : Bool) : (s.setCarry v).r2b = s.r2b := rfl
@[simp] theorem State.setCarry_r3b (s : State) (v : Bool) : (s.setCarry v).r3b = s.r3b := rfl
@[simp] theorem State.setCarry_stack (s : State) (v : Bool) : (s.setCarry v).stack = s.stack := rfl
@[simp] theorem State.setCarry_ip (s : State) (v : Bool) : (s.setCarry v).ip = s.ip := rfl
@[simp] theorem State.setCarry_psu (s : State) (v : Bool) : (s.setCarry v).psu = s.psu := rfl
@[simp] theorem State.setCarry_psl (s : State) (v : Bool) : (s.setCarry v).psl = withBit s.psl 0 v := rfl
@[simp] theorem State.setCarry_ivb (s : State) (v : Bool) : (s.setCarry v).ivb = s.ivb := rfl
@[simp] theorem State.setCarry_trapp (s : State) (v : Bool) : (s.setCarry v).trapp = s.trapp := rfl
@[simp] theorem State.setCarry_halted (s : State) (v : Bool) : (s.setCarry v).halted = s.halted := rfl
@[simp] theorem State.setCarry_irqPending (s : State) (v : Bool) : (s.setCarry v).irqPending = s.irqPending := rfl
@[simp] theorem State.setCarry_mem (s : State) (v : Bool) : (s.setCarry v).mem = s.mem := rfl
@[simp] theorem State.setCarry_memMap (s : State) (v : Bool) : (s.setCarry v).memMap = s.memMap := rfl
@[simp] theorem State.setCarry_trace (s : State) (v : Bool) : (s.setCarry v).trace = s.trace := rfl
@[simp] theorem State.setCarry_draws (s : State) (v : Bool) : (s.setCarry v).draws = s.draws := rfl
@[simp] theorem State.setCarry_phys (s : State) (v : Bool) (p : PhysReg) : (s.setCarry v).phys p = s.phys p := by cases p <;> rfl
@[simp] theorem State.setCarry_sp (s : State) (v : Bool) : (s.setCarry v).sp = s.sp := rfl
@[simp] theorem State.setCarry_ii (s : State) (v : Bool) : (s.setCarry v).ii = s.ii := rfl
@[simp] theorem State.setCarry_flagOut (s : State) (v : Bool) : (s.setCarry v).flagOut = s.flagOut := rfl
@[simp] theorem State.setCarry_page (s : State) (v : Bool) : (s.setCarry v).page = s.page := rfl
@[simp] theorem State.setCarry_pc (s : State) (v : Bool) : (s.setCarry v).pc = s.pc := rfl
@[simp] theorem State.setCarry_stackAt (s : State) (v : Bool) (j : BitVec 4) : (s.setCarry v).stackAt j = s.stackAt j := rfl
@[simp] theorem State.setCarry_byteAt (s : State) (v : Bool) (a : Word) : (s.setCarry v).byteAt a = s.byteAt a := rfl
@[simp] theorem State.setCarry_mapKind (s : State) (v : Bool) (a : Word) : (s.setCarry v).mapKind a = s.mapKind a := rfl
@[simp] theorem State.setCarry_memRead (s : State) (v : Bool) (k' : MemAccess) (a : Word) : (s.setCarry v).memRead k' a = s.memRead k' a := rfl

/-! ## setOvf -/

@[simp] theorem State.setOvf_r0 (s : State) (v : Bool) : (s.setOvf v).r0 = s.r0 := rfl
@[simp] theorem State.setOvf_r1 (s : State) (v : Bool) : (s.setOvf v).r1 = s.r1 := rfl
@[simp] theorem State.setOvf_r2 (s : State) (v : Bool) : (s.setOvf v).r2 = s.r2 := rfl
@[simp] theorem State.setOvf_r3 (s : State) (v : Bool) : (s.setOvf v).r3 = s.r3 := rfl
@[simp] theorem State.setOvf_r1b (s : State) (v : Bool) : (s.setOvf v).r1b = s.r1b := rfl
@[simp] theorem State.setOvf_r2b (s : State) (v : Bool) : (s.setOvf v).r2b = s.r2b := rfl
@[simp] theorem State.setOvf_r3b (s : State) (v : Bool) : (s.setOvf v).r3b = s.r3b := rfl
@[simp] theorem State.setOvf_stack (s : State) (v : Bool) : (s.setOvf v).stack = s.stack := rfl
@[simp] theorem State.setOvf_ip (s : State) (v : Bool) : (s.setOvf v).ip = s.ip := rfl
@[simp] theorem State.setOvf_psu (s : State) (v : Bool) : (s.setOvf v).psu = s.psu := rfl
@[simp] theorem State.setOvf_psl (s : State) (v : Bool) : (s.setOvf v).psl = withBit s.psl 2 v := rfl
@[simp] theorem State.setOvf_ivb (s : State) (v : Bool) : (s.setOvf v).ivb = s.ivb := rfl
@[simp] theorem State.setOvf_trapp (s : State) (v : Bool) : (s.setOvf v).trapp = s.trapp := rfl
@[simp] theorem State.setOvf_halted (s : State) (v : Bool) : (s.setOvf v).halted = s.halted := rfl
@[simp] theorem State.setOvf_irqPending (s : State) (v : Bool) : (s.setOvf v).irqPending = s.irqPending := rfl
@[simp] theorem State.setOvf_mem (s : State) (v : Bool) : (s.setOvf v).mem = s.mem := rfl
@[simp] theorem State.setOvf_memMap (s : State) (v : Bool) : (s.setOvf v).memMap = s.memMap := rfl
@[simp] theorem State.setOvf_trace (s : State) (v : Bool) : (s.setOvf v).trace = s.trace := rfl
@[simp] theorem State.setOvf_draws (s : State) (v : Bool) : (s.setOvf v).draws = s.draws := rfl
@[simp] theorem State.setOvf_phys (s : State) (v : Bool) (p : PhysReg) : (s.setOvf v).phys p = s.phys p := by cases p <;> rfl
@[simp] theorem State.setOvf_sp (s : State) (v : Bool) : (s.setOvf v).sp = s.sp := rfl
@[simp] theorem State.setOvf_ii (s : State) (v : Bool) : (s.setOvf v).ii = s.ii := rfl
@[simp] theorem State.setOvf_flagOut (s : State) (v : Bool) : (s.setOvf v).flagOut = s.flagOut := rfl
@[simp] theorem State.setOvf_page (s : State) (v : Bool) : (s.setOvf v).page = s.page := rfl
@[simp] theorem State.setOvf_pc (s : State) (v : Bool) : (s.setOvf v).pc = s.pc := rfl
@[simp] theorem State.setOvf_stackAt (s : State) (v : Bool) (j : BitVec 4) : (s.setOvf v).stackAt j = s.stackAt j := rfl
@[simp] theorem State.setOvf_byteAt (s : State) (v : Bool) (a : Word) : (s.setOvf v).byteAt a = s.byteAt a := rfl
@[simp] theorem State.setOvf_mapKind (s : State) (v : Bool) (a : Word) : (s.setOvf v).mapKind a = s.mapKind a := rfl
@[simp] theorem State.setOvf_memRead (s : State) (v : Bool) (k' : MemAccess) (a : Word) : (s.setOvf v).memRead k' a = s.memRead k' a := rfl

/-! ## setIdc -/

@[simp] theorem State.setIdc_r0 (s : State) (v : Bool) : (s.setIdc v).r0 = s.r0 := rfl
@[simp] theorem State.setIdc_r1 (s : State) (v : Bool) : (s.setIdc v).r1 = s.r1 := rfl
@[simp] theorem State.setIdc_r2 (s : State) (v : Bool) : (s.setIdc v).r2 = s.r2 := rfl
@[simp] theorem State.setIdc_r3 (s : State) (v : Bool) : (s.setIdc v).r3 = s.r3 := rfl
@[simp] theorem State.setIdc_r1b (s : State) (v : Bool) : (s.setIdc v).r1b = s.r1b := rfl
@[simp] theorem State.setIdc_r2b (s : State) (v : Bool) : (s.setIdc v).r2b = s.r2b := rfl
@[simp] theorem State.setIdc_r3b (s : State) (v : Bool) : (s.setIdc v).r3b = s.r3b := rfl
@[simp] theorem State.setIdc_stack (s : State) (v : Bool) : (s.setIdc v).stack = s.stack := rfl
@[simp] theorem State.setIdc_ip (s : State) (v : Bool) : (s.setIdc v).ip = s.ip := rfl
@[simp] theorem State.setIdc_psu (s : State) (v : Bool) : (s.setIdc v).psu = s.psu := rfl
@[simp] theorem State.setIdc_psl (s : State) (v : Bool) : (s.setIdc v).psl = withBit s.psl 5 v := rfl
@[simp] theorem State.setIdc_ivb (s : State) (v : Bool) : (s.setIdc v).ivb = s.ivb := rfl
@[simp] theorem State.setIdc_trapp (s : State) (v : Bool) : (s.setIdc v).trapp = s.trapp := rfl
@[simp] theorem State.setIdc_halted (s : State) (v : Bool) : (s.setIdc v).halted = s.halted := rfl
@[simp] theorem State.setIdc_irqPending (s : State) (v : Bool) : (s.setIdc v).irqPending = s.irqPending := rfl
@[simp] theorem State.setIdc_mem (s : State) (v : Bool) : (s.setIdc v).mem = s.mem := rfl
@[simp] theorem State.setIdc_memMap (s : State) (v : Bool) : (s.setIdc v).memMap = s.memMap := rfl
@[simp] theorem State.setIdc_trace (s : State) (v : Bool) : (s.setIdc v).trace = s.trace := rfl
@[simp] theorem State.setIdc_draws (s : State) (v : Bool) : (s.setIdc v).draws = s.draws := rfl
@[simp] theorem State.setIdc_phys (s : State) (v : Bool) (p : PhysReg) : (s.setIdc v).phys p = s.phys p := by cases p <;> rfl
@[simp] theorem State.setIdc_sp (s : State) (v : Bool) : (s.setIdc v).sp = s.sp := rfl
@[simp] theorem State.setIdc_ii (s : State) (v : Bool) : (s.setIdc v).ii = s.ii := rfl
@[simp] theorem State.setIdc_flagOut (s : State) (v : Bool) : (s.setIdc v).flagOut = s.flagOut := rfl
@[simp] theorem State.setIdc_page (s : State) (v : Bool) : (s.setIdc v).page = s.page := rfl
@[simp] theorem State.setIdc_pc (s : State) (v : Bool) : (s.setIdc v).pc = s.pc := rfl
@[simp] theorem State.setIdc_stackAt (s : State) (v : Bool) (j : BitVec 4) : (s.setIdc v).stackAt j = s.stackAt j := rfl
@[simp] theorem State.setIdc_byteAt (s : State) (v : Bool) (a : Word) : (s.setIdc v).byteAt a = s.byteAt a := rfl
@[simp] theorem State.setIdc_mapKind (s : State) (v : Bool) (a : Word) : (s.setIdc v).mapKind a = s.mapKind a := rfl
@[simp] theorem State.setIdc_memRead (s : State) (v : Bool) (k' : MemAccess) (a : Word) : (s.setIdc v).memRead k' a = s.memRead k' a := rfl

/-! ## setCC -/

@[simp] theorem State.setCC_r0 (s : State) (v : BitVec 2) : (s.setCC v).r0 = s.r0 := rfl
@[simp] theorem State.setCC_r1 (s : State) (v : BitVec 2) : (s.setCC v).r1 = s.r1 := rfl
@[simp] theorem State.setCC_r2 (s : State) (v : BitVec 2) : (s.setCC v).r2 = s.r2 := rfl
@[simp] theorem State.setCC_r3 (s : State) (v : BitVec 2) : (s.setCC v).r3 = s.r3 := rfl
@[simp] theorem State.setCC_r1b (s : State) (v : BitVec 2) : (s.setCC v).r1b = s.r1b := rfl
@[simp] theorem State.setCC_r2b (s : State) (v : BitVec 2) : (s.setCC v).r2b = s.r2b := rfl
@[simp] theorem State.setCC_r3b (s : State) (v : BitVec 2) : (s.setCC v).r3b = s.r3b := rfl
@[simp] theorem State.setCC_stack (s : State) (v : BitVec 2) : (s.setCC v).stack = s.stack := rfl
@[simp] theorem State.setCC_ip (s : State) (v : BitVec 2) : (s.setCC v).ip = s.ip := rfl
@[simp] theorem State.setCC_psu (s : State) (v : BitVec 2) : (s.setCC v).psu = s.psu := rfl
@[simp] theorem State.setCC_psl (s : State) (v : BitVec 2) : (s.setCC v).psl = v ++ s.psl.extractLsb' 0 6 := rfl
@[simp] theorem State.setCC_ivb (s : State) (v : BitVec 2) : (s.setCC v).ivb = s.ivb := rfl
@[simp] theorem State.setCC_trapp (s : State) (v : BitVec 2) : (s.setCC v).trapp = s.trapp := rfl
@[simp] theorem State.setCC_halted (s : State) (v : BitVec 2) : (s.setCC v).halted = s.halted := rfl
@[simp] theorem State.setCC_irqPending (s : State) (v : BitVec 2) : (s.setCC v).irqPending = s.irqPending := rfl
@[simp] theorem State.setCC_mem (s : State) (v : BitVec 2) : (s.setCC v).mem = s.mem := rfl
@[simp] theorem State.setCC_memMap (s : State) (v : BitVec 2) : (s.setCC v).memMap = s.memMap := rfl
@[simp] theorem State.setCC_trace (s : State) (v : BitVec 2) : (s.setCC v).trace = s.trace := rfl
@[simp] theorem State.setCC_draws (s : State) (v : BitVec 2) : (s.setCC v).draws = s.draws := rfl
@[simp] theorem State.setCC_phys (s : State) (v : BitVec 2) (p : PhysReg) : (s.setCC v).phys p = s.phys p := by cases p <;> rfl
@[simp] theorem State.setCC_sp (s : State) (v : BitVec 2) : (s.setCC v).sp = s.sp := rfl
@[simp] theorem State.setCC_ii (s : State) (v : BitVec 2) : (s.setCC v).ii = s.ii := rfl
@[simp] theorem State.setCC_flagOut (s : State) (v : BitVec 2) : (s.setCC v).flagOut = s.flagOut := rfl
@[simp] theorem State.setCC_page (s : State) (v : BitVec 2) : (s.setCC v).page = s.page := rfl
@[simp] theorem State.setCC_pc (s : State) (v : BitVec 2) : (s.setCC v).pc = s.pc := rfl
@[simp] theorem State.setCC_stackAt (s : State) (v : BitVec 2) (j : BitVec 4) : (s.setCC v).stackAt j = s.stackAt j := rfl
@[simp] theorem State.setCC_byteAt (s : State) (v : BitVec 2) (a : Word) : (s.setCC v).byteAt a = s.byteAt a := rfl
@[simp] theorem State.setCC_mapKind (s : State) (v : BitVec 2) (a : Word) : (s.setCC v).mapKind a = s.mapKind a := rfl
@[simp] theorem State.setCC_memRead (s : State) (v : BitVec 2) (k' : MemAccess) (a : Word) : (s.setCC v).memRead k' a = s.memRead k' a := rfl

/-! ## setPsu -/

@[simp] theorem State.setPsu_r0 (s : State) (v : Byte) : (s.setPsu v).r0 = s.r0 := rfl
@[simp] theorem State.setPsu_r1 (s : State) (v : Byte) : (s.setPsu v).r1 = s.r1 := rfl
@[simp] theorem State.setPsu_r2 (s : State) (v : Byte) : (s.setPsu v).r2 = s.r2 := rfl
@[simp] theorem State.setPsu_r3 (s : State) (v : Byte) : (s.setPsu v).r3 = s.r3 := rfl
@[simp] theorem State.setPsu_r1b (s : State) (v : Byte) : (s.setPsu v).r1b = s.r1b := rfl
@[simp] theorem State.setPsu_r2b (s : State) (v : Byte) : (s.setPsu v).r2b = s.r2b := rfl
@[simp] theorem State.setPsu_r3b (s : State) (v : Byte) : (s.setPsu v).r3b = s.r3b := rfl
@[simp] theorem State.setPsu_stack (s : State) (v : Byte) : (s.setPsu v).stack = s.stack := rfl
@[simp] theorem State.setPsu_ip (s : State) (v : Byte) : (s.setPsu v).ip = s.ip := rfl
@[simp] theorem State.setPsu_psu (s : State) (v : Byte) : (s.setPsu v).psu = v &&& 0x7F#8 := rfl
@[simp] theorem State.setPsu_psl (s : State) (v : Byte) : (s.setPsu v).psl = s.psl := rfl
@[simp] theorem State.setPsu_ivb (s : State) (v : Byte) : (s.setPsu v).ivb = s.ivb := rfl
@[simp] theorem State.setPsu_trapp (s : State) (v : Byte) : (s.setPsu v).trapp = s.trapp := rfl
@[simp] theorem State.setPsu_halted (s : State) (v : Byte) : (s.setPsu v).halted = s.halted := rfl
@[simp] theorem State.setPsu_irqPending (s : State) (v : Byte) : (s.setPsu v).irqPending = s.irqPending := rfl
@[simp] theorem State.setPsu_mem (s : State) (v : Byte) : (s.setPsu v).mem = s.mem := rfl
@[simp] theorem State.setPsu_memMap (s : State) (v : Byte) : (s.setPsu v).memMap = s.memMap := rfl
@[simp] theorem State.setPsu_trace (s : State) (v : Byte) : (s.setPsu v).trace = s.trace := rfl
@[simp] theorem State.setPsu_draws (s : State) (v : Byte) : (s.setPsu v).draws = s.draws := rfl
@[simp] theorem State.setPsu_phys (s : State) (v : Byte) (p : PhysReg) : (s.setPsu v).phys p = s.phys p := by cases p <;> rfl
@[simp] theorem State.setPsu_carry (s : State) (v : Byte) : (s.setPsu v).carry = s.carry := rfl
@[simp] theorem State.setPsu_com (s : State) (v : Byte) : (s.setPsu v).com = s.com := rfl
@[simp] theorem State.setPsu_ovf (s : State) (v : Byte) : (s.setPsu v).ovf = s.ovf := rfl
@[simp] theorem State.setPsu_wc (s : State) (v : Byte) : (s.setPsu v).wc = s.wc := rfl
@[simp] theorem State.setPsu_rs (s : State) (v : Byte) : (s.setPsu v).rs = s.rs := rfl
@[simp] theorem State.setPsu_idc (s : State) (v : Byte) : (s.setPsu v).idc = s.idc := rfl
@[simp] theorem State.setPsu_cc (s : State) (v : Byte) : (s.setPsu v).cc = s.cc := rfl
@[simp] theorem State.setPsu_page (s : State) (v : Byte) : (s.setPsu v).page = s.page := rfl
@[simp] theorem State.setPsu_pc (s : State) (v : Byte) : (s.setPsu v).pc = s.pc := rfl
@[simp] theorem State.setPsu_reg (s : State) (v : Byte) (r : Reg) : (s.setPsu v).reg r = s.reg r := by
  simp [State.reg]
@[simp] theorem State.setPsu_stackAt (s : State) (v : Byte) (j : BitVec 4) : (s.setPsu v).stackAt j = s.stackAt j := rfl
@[simp] theorem State.setPsu_byteAt (s : State) (v : Byte) (a : Word) : (s.setPsu v).byteAt a = s.byteAt a := rfl
@[simp] theorem State.setPsu_mapKind (s : State) (v : Byte) (a : Word) : (s.setPsu v).mapKind a = s.mapKind a := rfl
@[simp] theorem State.setPsu_memRead (s : State) (v : Byte) (k' : MemAccess) (a : Word) : (s.setPsu v).memRead k' a = s.memRead k' a := rfl

/-! ## setSp -/

@[simp] theorem State.setSp_r0 (s : State) (v : BitVec 4) : (s.setSp v).r0 = s.r0 := rfl
@[simp] theorem State.setSp_r1 (s : State) (v : BitVec 4) : (s.setSp v).r1 = s.r1 := rfl
@[simp] theorem State.setSp_r2 (s : State) (v : BitVec 4) : (s.setSp v).r2 = s.r2 := rfl
@[simp] theorem State.setSp_r3 (s : State) (v : BitVec 4) : (s.setSp v).r3 = s.r3 := rfl
@[simp] theorem State.setSp_r1b (s : State) (v : BitVec 4) : (s.setSp v).r1b = s.r1b := rfl
@[simp] theorem State.setSp_r2b (s : State) (v : BitVec 4) : (s.setSp v).r2b = s.r2b := rfl
@[simp] theorem State.setSp_r3b (s : State) (v : BitVec 4) : (s.setSp v).r3b = s.r3b := rfl
@[simp] theorem State.setSp_stack (s : State) (v : BitVec 4) : (s.setSp v).stack = s.stack := rfl
@[simp] theorem State.setSp_ip (s : State) (v : BitVec 4) : (s.setSp v).ip = s.ip := rfl
@[simp] theorem State.setSp_psu (s : State) (v : BitVec 4) : (s.setSp v).psu = s.psu.extractLsb' 4 4 ++ v := rfl
@[simp] theorem State.setSp_psl (s : State) (v : BitVec 4) : (s.setSp v).psl = s.psl := rfl
@[simp] theorem State.setSp_ivb (s : State) (v : BitVec 4) : (s.setSp v).ivb = s.ivb := rfl
@[simp] theorem State.setSp_trapp (s : State) (v : BitVec 4) : (s.setSp v).trapp = s.trapp := rfl
@[simp] theorem State.setSp_halted (s : State) (v : BitVec 4) : (s.setSp v).halted = s.halted := rfl
@[simp] theorem State.setSp_irqPending (s : State) (v : BitVec 4) : (s.setSp v).irqPending = s.irqPending := rfl
@[simp] theorem State.setSp_mem (s : State) (v : BitVec 4) : (s.setSp v).mem = s.mem := rfl
@[simp] theorem State.setSp_memMap (s : State) (v : BitVec 4) : (s.setSp v).memMap = s.memMap := rfl
@[simp] theorem State.setSp_trace (s : State) (v : BitVec 4) : (s.setSp v).trace = s.trace := rfl
@[simp] theorem State.setSp_draws (s : State) (v : BitVec 4) : (s.setSp v).draws = s.draws := rfl
@[simp] theorem State.setSp_phys (s : State) (v : BitVec 4) (p : PhysReg) : (s.setSp v).phys p = s.phys p := by cases p <;> rfl
@[simp] theorem State.setSp_carry (s : State) (v : BitVec 4) : (s.setSp v).carry = s.carry := rfl
@[simp] theorem State.setSp_com (s : State) (v : BitVec 4) : (s.setSp v).com = s.com := rfl
@[simp] theorem State.setSp_ovf (s : State) (v : BitVec 4) : (s.setSp v).ovf = s.ovf := rfl
@[simp] theorem State.setSp_wc (s : State) (v : BitVec 4) : (s.setSp v).wc = s.wc := rfl
@[simp] theorem State.setSp_rs (s : State) (v : BitVec 4) : (s.setSp v).rs = s.rs := rfl
@[simp] theorem State.setSp_idc (s : State) (v : BitVec 4) : (s.setSp v).idc = s.idc := rfl
@[simp] theorem State.setSp_cc (s : State) (v : BitVec 4) : (s.setSp v).cc = s.cc := rfl
@[simp] theorem State.setSp_page (s : State) (v : BitVec 4) : (s.setSp v).page = s.page := rfl
@[simp] theorem State.setSp_pc (s : State) (v : BitVec 4) : (s.setSp v).pc = s.pc := rfl
@[simp] theorem State.setSp_reg (s : State) (v : BitVec 4) (r : Reg) : (s.setSp v).reg r = s.reg r := by
  simp [State.reg]
@[simp] theorem State.setSp_stackAt (s : State) (v : BitVec 4) (j : BitVec 4) : (s.setSp v).stackAt j = s.stackAt j := rfl
@[simp] theorem State.setSp_byteAt (s : State) (v : BitVec 4) (a : Word) : (s.setSp v).byteAt a = s.byteAt a := rfl
@[simp] theorem State.setSp_mapKind (s : State) (v : BitVec 4) (a : Word) : (s.setSp v).mapKind a = s.mapKind a := rfl
@[simp] theorem State.setSp_memRead (s : State) (v : BitVec 4) (k' : MemAccess) (a : Word) : (s.setSp v).memRead k' a = s.memRead k' a := rfl

/-! ## setII -/

@[simp] theorem State.setII_r0 (s : State) (v : Bool) : (s.setII v).r0 = s.r0 := rfl
@[simp] theorem State.setII_r1 (s : State) (v : Bool) : (s.setII v).r1 = s.r1 := rfl
@[simp] theorem State.setII_r2 (s : State) (v : Bool) : (s.setII v).r2 = s.r2 := rfl
@[simp] theorem State.setII_r3 (s : State) (v : Bool) : (s.setII v).r3 = s.r3 := rfl
@[simp] theorem State.setII_r1b (s : State) (v : Bool) : (s.setII v).r1b = s.r1b := rfl
@[simp] theorem State.setII_r2b (s : State) (v : Bool) : (s.setII v).r2b = s.r2b := rfl
@[simp] theorem State.setII_r3b (s : State) (v : Bool) : (s.setII v).r3b = s.r3b := rfl
@[simp] theorem State.setII_stack (s : State) (v : Bool) : (s.setII v).stack = s.stack := rfl
@[simp] theorem State.setII_ip (s : State) (v : Bool) : (s.setII v).ip = s.ip := rfl
@[simp] theorem State.setII_psu (s : State) (v : Bool) : (s.setII v).psu = withBit s.psu 5 v := rfl
@[simp] theorem State.setII_psl (s : State) (v : Bool) : (s.setII v).psl = s.psl := rfl
@[simp] theorem State.setII_ivb (s : State) (v : Bool) : (s.setII v).ivb = s.ivb := rfl
@[simp] theorem State.setII_trapp (s : State) (v : Bool) : (s.setII v).trapp = s.trapp := rfl
@[simp] theorem State.setII_halted (s : State) (v : Bool) : (s.setII v).halted = s.halted := rfl
@[simp] theorem State.setII_irqPending (s : State) (v : Bool) : (s.setII v).irqPending = s.irqPending := rfl
@[simp] theorem State.setII_mem (s : State) (v : Bool) : (s.setII v).mem = s.mem := rfl
@[simp] theorem State.setII_memMap (s : State) (v : Bool) : (s.setII v).memMap = s.memMap := rfl
@[simp] theorem State.setII_trace (s : State) (v : Bool) : (s.setII v).trace = s.trace := rfl
@[simp] theorem State.setII_draws (s : State) (v : Bool) : (s.setII v).draws = s.draws := rfl
@[simp] theorem State.setII_phys (s : State) (v : Bool) (p : PhysReg) : (s.setII v).phys p = s.phys p := by cases p <;> rfl
@[simp] theorem State.setII_carry (s : State) (v : Bool) : (s.setII v).carry = s.carry := rfl
@[simp] theorem State.setII_com (s : State) (v : Bool) : (s.setII v).com = s.com := rfl
@[simp] theorem State.setII_ovf (s : State) (v : Bool) : (s.setII v).ovf = s.ovf := rfl
@[simp] theorem State.setII_wc (s : State) (v : Bool) : (s.setII v).wc = s.wc := rfl
@[simp] theorem State.setII_rs (s : State) (v : Bool) : (s.setII v).rs = s.rs := rfl
@[simp] theorem State.setII_idc (s : State) (v : Bool) : (s.setII v).idc = s.idc := rfl
@[simp] theorem State.setII_cc (s : State) (v : Bool) : (s.setII v).cc = s.cc := rfl
@[simp] theorem State.setII_page (s : State) (v : Bool) : (s.setII v).page = s.page := rfl
@[simp] theorem State.setII_pc (s : State) (v : Bool) : (s.setII v).pc = s.pc := rfl
@[simp] theorem State.setII_reg (s : State) (v : Bool) (r : Reg) : (s.setII v).reg r = s.reg r := by
  simp [State.reg]
@[simp] theorem State.setII_stackAt (s : State) (v : Bool) (j : BitVec 4) : (s.setII v).stackAt j = s.stackAt j := rfl
@[simp] theorem State.setII_byteAt (s : State) (v : Bool) (a : Word) : (s.setII v).byteAt a = s.byteAt a := rfl
@[simp] theorem State.setII_mapKind (s : State) (v : Bool) (a : Word) : (s.setII v).mapKind a = s.mapKind a := rfl
@[simp] theorem State.setII_memRead (s : State) (v : Bool) (k' : MemAccess) (a : Word) : (s.setII v).memRead k' a = s.memRead k' a := rfl

/-! ## setIp -/

@[simp] theorem State.setIp_r0 (s : State) (v : Word) : (s.setIp v).r0 = s.r0 := rfl
@[simp] theorem State.setIp_r1 (s : State) (v : Word) : (s.setIp v).r1 = s.r1 := rfl
@[simp] theorem State.setIp_r2 (s : State) (v : Word) : (s.setIp v).r2 = s.r2 := rfl
@[simp] theorem State.setIp_r3 (s : State) (v : Word) : (s.setIp v).r3 = s.r3 := rfl
@[simp] theorem State.setIp_r1b (s : State) (v : Word) : (s.setIp v).r1b = s.r1b := rfl
@[simp] theorem State.setIp_r2b (s : State) (v : Word) : (s.setIp v).r2b = s.r2b := rfl
@[simp] theorem State.setIp_r3b (s : State) (v : Word) : (s.setIp v).r3b = s.r3b := rfl
@[simp] theorem State.setIp_stack (s : State) (v : Word) : (s.setIp v).stack = s.stack := rfl
@[simp] theorem State.setIp_ip (s : State) (v : Word) : (s.setIp v).ip = v := rfl
@[simp] theorem State.setIp_psu (s : State) (v : Word) : (s.setIp v).psu = s.psu := rfl
@[simp] theorem State.setIp_psl (s : State) (v : Word) : (s.setIp v).psl = s.psl := rfl
@[simp] theorem State.setIp_ivb (s : State) (v : Word) : (s.setIp v).ivb = s.ivb := rfl
@[simp] theorem State.setIp_trapp (s : State) (v : Word) : (s.setIp v).trapp = s.trapp := rfl
@[simp] theorem State.setIp_halted (s : State) (v : Word) : (s.setIp v).halted = s.halted := rfl
@[simp] theorem State.setIp_irqPending (s : State) (v : Word) : (s.setIp v).irqPending = s.irqPending := rfl
@[simp] theorem State.setIp_mem (s : State) (v : Word) : (s.setIp v).mem = s.mem := rfl
@[simp] theorem State.setIp_memMap (s : State) (v : Word) : (s.setIp v).memMap = s.memMap := rfl
@[simp] theorem State.setIp_trace (s : State) (v : Word) : (s.setIp v).trace = s.trace := rfl
@[simp] theorem State.setIp_draws (s : State) (v : Word) : (s.setIp v).draws = s.draws := rfl
@[simp] theorem State.setIp_phys (s : State) (v : Word) (p : PhysReg) : (s.setIp v).phys p = s.phys p := by cases p <;> rfl
@[simp] theorem State.setIp_carry (s : State) (v : Word) : (s.setIp v).carry = s.carry := rfl
@[simp] theorem State.setIp_com (s : State) (v : Word) : (s.setIp v).com = s.com := rfl
@[simp] theorem State.setIp_ovf (s : State) (v : Word) : (s.setIp v).ovf = s.ovf := rfl
@[simp] theorem State.setIp_wc (s : State) (v : Word) : (s.setIp v).wc = s.wc := rfl
@[simp] theorem State.setIp_rs (s : State) (v : Word) : (s.setIp v).rs = s.rs := rfl
@[simp] theorem State.setIp_idc (s : State) (v : Word) : (s.setIp v).idc = s.idc := rfl
@[simp] theorem State.setIp_cc (s : State) (v : Word) : (s.setIp v).cc = s.cc := rfl
@[simp] theorem State.setIp_sp (s : State) (v : Word) : (s.setIp v).sp = s.sp := rfl
@[simp] theorem State.setIp_ii (s : State) (v : Word) : (s.setIp v).ii = s.ii := rfl
@[simp] theorem State.setIp_flagOut (s : State) (v : Word) : (s.setIp v).flagOut = s.flagOut := rfl
@[simp] theorem State.setIp_reg (s : State) (v : Word) (r : Reg) : (s.setIp v).reg r = s.reg r := by
  simp [State.reg]
@[simp] theorem State.setIp_stackAt (s : State) (v : Word) (j : BitVec 4) : (s.setIp v).stackAt j = s.stackAt j := rfl
@[simp] theorem State.setIp_byteAt (s : State) (v : Word) (a : Word) : (s.setIp v).byteAt a = s.byteAt a := rfl
@[simp] theorem State.setIp_mapKind (s : State) (v : Word) (a : Word) : (s.setIp v).mapKind a = s.mapKind a := rfl
@[simp] theorem State.setIp_memRead (s : State) (v : Word) (k' : MemAccess) (a : Word) : (s.setIp v).memRead k' a = s.memRead k' a := rfl

/-! ## setStack -/

@[simp] theorem State.setStack_r0 (s : State) (k : BitVec 4) (v : Word) : (s.setStack k v).r0 = s.r0 := rfl
@[simp] theorem State.setStack_r1 (s : State) (k : BitVec 4) (v : Word) : (s.setStack k v).r1 = s.r1 := rfl
@[simp] theorem State.setStack_r2 (s : State) (k : BitVec 4) (v : Word) : (s.setStack k v).r2 = s.r2 := rfl
@[simp] theorem State.setStack_r3 (s : State) (k : BitVec 4) (v : Word) : (s.setStack k v).r3 = s.r3 := rfl
@[simp] theorem State.setStack_r1b (s : State) (k : BitVec 4) (v : Word) : (s.setStack k v).r1b = s.r1b := rfl
@[simp] theorem State.setStack_r2b (s : State) (k : BitVec 4) (v : Word) : (s.setStack k v).r2b = s.r2b := rfl
@[simp] theorem State.setStack_r3b (s : State) (k : BitVec 4) (v : Word) : (s.setStack k v).r3b = s.r3b := rfl
@[simp] theorem State.setStack_stack (s : State) (k : BitVec 4) (v : Word) : (s.setStack k v).stack = s.stack.set k.toNat v k.isLt := rfl
@[simp] theorem State.setStack_ip (s : State) (k : BitVec 4) (v : Word) : (s.setStack k v).ip = s.ip := rfl
@[simp] theorem State.setStack_psu (s : State) (k : BitVec 4) (v : Word) : (s.setStack k v).psu = s.psu := rfl
@[simp] theorem State.setStack_psl (s : State) (k : BitVec 4) (v : Word) : (s.setStack k v).psl = s.psl := rfl
@[simp] theorem State.setStack_ivb (s : State) (k : BitVec 4) (v : Word) : (s.setStack k v).ivb = s.ivb := rfl
@[simp] theorem State.setStack_trapp (s : State) (k : BitVec 4) (v : Word) : (s.setStack k v).trapp = s.trapp := rfl
@[simp] theorem State.setStack_halted (s : State) (k : BitVec 4) (v : Word) : (s.setStack k v).halted = s.halted := rfl
@[simp] theorem State.setStack_irqPending (s : State) (k : BitVec 4) (v : Word) : (s.setStack k v).irqPending = s.irqPending := rfl
@[simp] theorem State.setStack_mem (s : State) (k : BitVec 4) (v : Word) : (s.setStack k v).mem = s.mem := rfl
@[simp] theorem State.setStack_memMap (s : State) (k : BitVec 4) (v : Word) : (s.setStack k v).memMap = s.memMap := rfl
@[simp] theorem State.setStack_trace (s : State) (k : BitVec 4) (v : Word) : (s.setStack k v).trace = s.trace := rfl
@[simp] theorem State.setStack_draws (s : State) (k : BitVec 4) (v : Word) : (s.setStack k v).draws = s.draws := rfl
@[simp] theorem State.setStack_phys (s : State) (k : BitVec 4) (v : Word) (p : PhysReg) : (s.setStack k v).phys p = s.phys p := by cases p <;> rfl
@[simp] theorem State.setStack_carry (s : State) (k : BitVec 4) (v : Word) : (s.setStack k v).carry = s.carry := rfl
@[simp] theorem State.setStack_com (s : State) (k : BitVec 4) (v : Word) : (s.setStack k v).com = s.com := rfl
@[simp] theorem State.setStack_ovf (s : State) (k : BitVec 4) (v : Word) : (s.setStack k v).ovf = s.ovf := rfl
@[simp] theorem State.setStack_wc (s : State) (k : BitVec 4) (v : Word) : (s.setStack k v).wc = s.wc := rfl
@[simp] theorem State.setStack_rs (s : State) (k : BitVec 4) (v : Word) : (s.setStack k v).rs = s.rs := rfl
@[simp] theorem State.setStack_idc (s : State) (k : BitVec 4) (v : Word) : (s.setStack k v).idc = s.idc := rfl
@[simp] theorem State.setStack_cc (s : State) (k : BitVec 4) (v : Word) : (s.setStack k v).cc = s.cc := rfl
@[simp] theorem State.setStack_sp (s : State) (k : BitVec 4) (v : Word) : (s.setStack k v).sp = s.sp := rfl
@[simp] theorem State.setStack_ii (s : State) (k : BitVec 4) (v : Word) : (s.setStack k v).ii = s.ii := rfl
@[simp] theorem State.setStack_flagOut (s : State) (k : BitVec 4) (v : Word) : (s.setStack k v).flagOut = s.flagOut := rfl
@[simp] theorem State.setStack_page (s : State) (k : BitVec 4) (v : Word) : (s.setStack k v).page = s.page := rfl
@[simp] theorem State.setStack_pc (s : State) (k : BitVec 4) (v : Word) : (s.setStack k v).pc = s.pc := rfl
@[simp] theorem State.setStack_reg (s : State) (k : BitVec 4) (v : Word) (r : Reg) : (s.setStack k v).reg r = s.reg r := by
  simp [State.reg]
@[simp] theorem State.setStack_byteAt (s : State) (k : BitVec 4) (v : Word) (a : Word) : (s.setStack k v).byteAt a = s.byteAt a := rfl
@[simp] theorem State.setStack_mapKind (s : State) (k : BitVec 4) (v : Word) (a : Word) : (s.setStack k v).mapKind a = s.mapKind a := rfl
@[simp] theorem State.setStack_memRead (s : State) (k : BitVec 4) (v : Word) (k' : MemAccess) (a : Word) : (s.setStack k v).memRead k' a = s.memRead k' a := rfl

/-! ## record -/

@[simp] theorem State.record_r0 (s : State) (x : List Transaction) : (s.record x).r0 = s.r0 := rfl
@[simp] theorem State.record_r1 (s : State) (x : List Transaction) : (s.record x).r1 = s.r1 := rfl
@[simp] theorem State.record_r2 (s : State) (x : List Transaction) : (s.record x).r2 = s.r2 := rfl
@[simp] theorem State.record_r3 (s : State) (x : List Transaction) : (s.record x).r3 = s.r3 := rfl
@[simp] theorem State.record_r1b (s : State) (x : List Transaction) : (s.record x).r1b = s.r1b := rfl
@[simp] theorem State.record_r2b (s : State) (x : List Transaction) : (s.record x).r2b = s.r2b := rfl
@[simp] theorem State.record_r3b (s : State) (x : List Transaction) : (s.record x).r3b = s.r3b := rfl
@[simp] theorem State.record_stack (s : State) (x : List Transaction) : (s.record x).stack = s.stack := rfl
@[simp] theorem State.record_ip (s : State) (x : List Transaction) : (s.record x).ip = s.ip := rfl
@[simp] theorem State.record_psu (s : State) (x : List Transaction) : (s.record x).psu = s.psu := rfl
@[simp] theorem State.record_psl (s : State) (x : List Transaction) : (s.record x).psl = s.psl := rfl
@[simp] theorem State.record_ivb (s : State) (x : List Transaction) : (s.record x).ivb = s.ivb := rfl
@[simp] theorem State.record_trapp (s : State) (x : List Transaction) : (s.record x).trapp = s.trapp := rfl
@[simp] theorem State.record_halted (s : State) (x : List Transaction) : (s.record x).halted = s.halted := rfl
@[simp] theorem State.record_irqPending (s : State) (x : List Transaction) : (s.record x).irqPending = s.irqPending := rfl
@[simp] theorem State.record_mem (s : State) (x : List Transaction) : (s.record x).mem = s.mem := rfl
@[simp] theorem State.record_memMap (s : State) (x : List Transaction) : (s.record x).memMap = s.memMap := rfl
@[simp] theorem State.record_trace (s : State) (x : List Transaction) : (s.record x).trace = s.trace ++ x := rfl
@[simp] theorem State.record_draws (s : State) (x : List Transaction) : (s.record x).draws = s.draws := rfl
@[simp] theorem State.record_phys (s : State) (x : List Transaction) (p : PhysReg) : (s.record x).phys p = s.phys p := by cases p <;> rfl
@[simp] theorem State.record_carry (s : State) (x : List Transaction) : (s.record x).carry = s.carry := rfl
@[simp] theorem State.record_com (s : State) (x : List Transaction) : (s.record x).com = s.com := rfl
@[simp] theorem State.record_ovf (s : State) (x : List Transaction) : (s.record x).ovf = s.ovf := rfl
@[simp] theorem State.record_wc (s : State) (x : List Transaction) : (s.record x).wc = s.wc := rfl
@[simp] theorem State.record_rs (s : State) (x : List Transaction) : (s.record x).rs = s.rs := rfl
@[simp] theorem State.record_idc (s : State) (x : List Transaction) : (s.record x).idc = s.idc := rfl
@[simp] theorem State.record_cc (s : State) (x : List Transaction) : (s.record x).cc = s.cc := rfl
@[simp] theorem State.record_sp (s : State) (x : List Transaction) : (s.record x).sp = s.sp := rfl
@[simp] theorem State.record_ii (s : State) (x : List Transaction) : (s.record x).ii = s.ii := rfl
@[simp] theorem State.record_flagOut (s : State) (x : List Transaction) : (s.record x).flagOut = s.flagOut := rfl
@[simp] theorem State.record_page (s : State) (x : List Transaction) : (s.record x).page = s.page := rfl
@[simp] theorem State.record_pc (s : State) (x : List Transaction) : (s.record x).pc = s.pc := rfl
@[simp] theorem State.record_reg (s : State) (x : List Transaction) (r : Reg) : (s.record x).reg r = s.reg r := by
  simp [State.reg]
@[simp] theorem State.record_stackAt (s : State) (x : List Transaction) (j : BitVec 4) : (s.record x).stackAt j = s.stackAt j := rfl
@[simp] theorem State.record_byteAt (s : State) (x : List Transaction) (a : Word) : (s.record x).byteAt a = s.byteAt a := rfl
@[simp] theorem State.record_mapKind (s : State) (x : List Transaction) (a : Word) : (s.record x).mapKind a = s.mapKind a := rfl
@[simp] theorem State.record_memRead (s : State) (x : List Transaction) (k' : MemAccess) (a : Word) : (s.record x).memRead k' a = s.memRead k' a := rfl
/-- Nothing recorded, nothing changed: a direct address, or a read outside every device. -/
@[simp] theorem State.record_nil (s : State) : s.record [] = s := by
  unfold State.record
  rw [List.append_nil]

/-! ## tick -/

@[simp] theorem State.tick_r0 (s : State) : (s.tick).r0 = s.r0 := rfl
@[simp] theorem State.tick_r1 (s : State) : (s.tick).r1 = s.r1 := rfl
@[simp] theorem State.tick_r2 (s : State) : (s.tick).r2 = s.r2 := rfl
@[simp] theorem State.tick_r3 (s : State) : (s.tick).r3 = s.r3 := rfl
@[simp] theorem State.tick_r1b (s : State) : (s.tick).r1b = s.r1b := rfl
@[simp] theorem State.tick_r2b (s : State) : (s.tick).r2b = s.r2b := rfl
@[simp] theorem State.tick_r3b (s : State) : (s.tick).r3b = s.r3b := rfl
@[simp] theorem State.tick_stack (s : State) : (s.tick).stack = s.stack := rfl
@[simp] theorem State.tick_ip (s : State) : (s.tick).ip = s.ip := rfl
@[simp] theorem State.tick_psu (s : State) : (s.tick).psu = s.psu := rfl
@[simp] theorem State.tick_psl (s : State) : (s.tick).psl = s.psl := rfl
@[simp] theorem State.tick_ivb (s : State) : (s.tick).ivb = s.ivb := rfl
@[simp] theorem State.tick_trapp (s : State) : (s.tick).trapp = s.trapp := rfl
@[simp] theorem State.tick_halted (s : State) : (s.tick).halted = s.halted := rfl
@[simp] theorem State.tick_irqPending (s : State) : (s.tick).irqPending = s.irqPending := rfl
@[simp] theorem State.tick_mem (s : State) : (s.tick).mem = s.mem := rfl
@[simp] theorem State.tick_memMap (s : State) : (s.tick).memMap = s.memMap := rfl
@[simp] theorem State.tick_trace (s : State) : (s.tick).trace = s.trace := rfl
@[simp] theorem State.tick_draws (s : State) : (s.tick).draws = s.draws + 1 := rfl
@[simp] theorem State.tick_phys (s : State) (p : PhysReg) : (s.tick).phys p = s.phys p := by cases p <;> rfl
@[simp] theorem State.tick_carry (s : State) : (s.tick).carry = s.carry := rfl
@[simp] theorem State.tick_com (s : State) : (s.tick).com = s.com := rfl
@[simp] theorem State.tick_ovf (s : State) : (s.tick).ovf = s.ovf := rfl
@[simp] theorem State.tick_wc (s : State) : (s.tick).wc = s.wc := rfl
@[simp] theorem State.tick_rs (s : State) : (s.tick).rs = s.rs := rfl
@[simp] theorem State.tick_idc (s : State) : (s.tick).idc = s.idc := rfl
@[simp] theorem State.tick_cc (s : State) : (s.tick).cc = s.cc := rfl
@[simp] theorem State.tick_sp (s : State) : (s.tick).sp = s.sp := rfl
@[simp] theorem State.tick_ii (s : State) : (s.tick).ii = s.ii := rfl
@[simp] theorem State.tick_flagOut (s : State) : (s.tick).flagOut = s.flagOut := rfl
@[simp] theorem State.tick_page (s : State) : (s.tick).page = s.page := rfl
@[simp] theorem State.tick_pc (s : State) : (s.tick).pc = s.pc := rfl
@[simp] theorem State.tick_reg (s : State) (r : Reg) : (s.tick).reg r = s.reg r := by
  simp [State.reg]
@[simp] theorem State.tick_stackAt (s : State) (j : BitVec 4) : (s.tick).stackAt j = s.stackAt j := rfl
@[simp] theorem State.tick_byteAt (s : State) (a : Word) : (s.tick).byteAt a = s.byteAt a := rfl
@[simp] theorem State.tick_mapKind (s : State) (a : Word) : (s.tick).mapKind a = s.mapKind a := rfl

/-! ## setPhys -/

@[simp] theorem State.setPhys_phys (s : State) (p q : PhysReg) (v : Byte) :
    (s.setPhys p v).phys q = if q = p then v else s.phys q := by
  cases p <;> cases q <;> rfl

@[simp] theorem State.setPhys_stack (s : State) (p : PhysReg) (v : Byte) : (s.setPhys p v).stack = s.stack := by cases p <;> rfl
@[simp] theorem State.setPhys_ip (s : State) (p : PhysReg) (v : Byte) : (s.setPhys p v).ip = s.ip := by cases p <;> rfl
@[simp] theorem State.setPhys_psu (s : State) (p : PhysReg) (v : Byte) : (s.setPhys p v).psu = s.psu := by cases p <;> rfl
@[simp] theorem State.setPhys_psl (s : State) (p : PhysReg) (v : Byte) : (s.setPhys p v).psl = s.psl := by cases p <;> rfl
@[simp] theorem State.setPhys_ivb (s : State) (p : PhysReg) (v : Byte) : (s.setPhys p v).ivb = s.ivb := by cases p <;> rfl
@[simp] theorem State.setPhys_trapp (s : State) (p : PhysReg) (v : Byte) : (s.setPhys p v).trapp = s.trapp := by cases p <;> rfl
@[simp] theorem State.setPhys_halted (s : State) (p : PhysReg) (v : Byte) : (s.setPhys p v).halted = s.halted := by cases p <;> rfl
@[simp] theorem State.setPhys_irqPending (s : State) (p : PhysReg) (v : Byte) : (s.setPhys p v).irqPending = s.irqPending := by cases p <;> rfl
@[simp] theorem State.setPhys_mem (s : State) (p : PhysReg) (v : Byte) : (s.setPhys p v).mem = s.mem := by cases p <;> rfl
@[simp] theorem State.setPhys_memMap (s : State) (p : PhysReg) (v : Byte) : (s.setPhys p v).memMap = s.memMap := by cases p <;> rfl
@[simp] theorem State.setPhys_trace (s : State) (p : PhysReg) (v : Byte) : (s.setPhys p v).trace = s.trace := by cases p <;> rfl
@[simp] theorem State.setPhys_draws (s : State) (p : PhysReg) (v : Byte) : (s.setPhys p v).draws = s.draws := by cases p <;> rfl
@[simp] theorem State.setPhys_carry (s : State) (p : PhysReg) (v : Byte) : (s.setPhys p v).carry = s.carry := by cases p <;> rfl
@[simp] theorem State.setPhys_com (s : State) (p : PhysReg) (v : Byte) : (s.setPhys p v).com = s.com := by cases p <;> rfl
@[simp] theorem State.setPhys_ovf (s : State) (p : PhysReg) (v : Byte) : (s.setPhys p v).ovf = s.ovf := by cases p <;> rfl
@[simp] theorem State.setPhys_wc (s : State) (p : PhysReg) (v : Byte) : (s.setPhys p v).wc = s.wc := by cases p <;> rfl
@[simp] theorem State.setPhys_rs (s : State) (p : PhysReg) (v : Byte) : (s.setPhys p v).rs = s.rs := by cases p <;> rfl
@[simp] theorem State.setPhys_idc (s : State) (p : PhysReg) (v : Byte) : (s.setPhys p v).idc = s.idc := by cases p <;> rfl
@[simp] theorem State.setPhys_cc (s : State) (p : PhysReg) (v : Byte) : (s.setPhys p v).cc = s.cc := by cases p <;> rfl
@[simp] theorem State.setPhys_sp (s : State) (p : PhysReg) (v : Byte) : (s.setPhys p v).sp = s.sp := by cases p <;> rfl
@[simp] theorem State.setPhys_ii (s : State) (p : PhysReg) (v : Byte) : (s.setPhys p v).ii = s.ii := by cases p <;> rfl
@[simp] theorem State.setPhys_flagOut (s : State) (p : PhysReg) (v : Byte) : (s.setPhys p v).flagOut = s.flagOut := by cases p <;> rfl
@[simp] theorem State.setPhys_page (s : State) (p : PhysReg) (v : Byte) : (s.setPhys p v).page = s.page := by cases p <;> rfl
@[simp] theorem State.setPhys_pc (s : State) (p : PhysReg) (v : Byte) : (s.setPhys p v).pc = s.pc := by cases p <;> rfl
@[simp] theorem State.setPhys_stackAt (s : State) (p : PhysReg) (v : Byte) (j : BitVec 4) : (s.setPhys p v).stackAt j = s.stackAt j := by
  cases p <;> rfl
@[simp] theorem State.setPhys_byteAt (s : State) (p : PhysReg) (v : Byte) (a : Word) : (s.setPhys p v).byteAt a = s.byteAt a := by
  cases p <;> rfl
@[simp] theorem State.setPhys_mapKind (s : State) (p : PhysReg) (v : Byte) (a : Word) : (s.setPhys p v).mapKind a = s.mapKind a := by
  cases p <;> rfl
@[simp] theorem State.setPhys_memRead (s : State) (p : PhysReg) (v : Byte) (k : MemAccess) (a : Word) : (s.setPhys p v).memRead k a = s.memRead k a := by
  cases p <;> rfl

/-! ## setReg -/

@[simp] theorem State.setReg_stack (s : State) (r : Reg) (v : Byte) : (s.setReg r v).stack = s.stack := by simp [State.setReg]
@[simp] theorem State.setReg_ip (s : State) (r : Reg) (v : Byte) : (s.setReg r v).ip = s.ip := by simp [State.setReg]
@[simp] theorem State.setReg_psu (s : State) (r : Reg) (v : Byte) : (s.setReg r v).psu = s.psu := by simp [State.setReg]
@[simp] theorem State.setReg_psl (s : State) (r : Reg) (v : Byte) : (s.setReg r v).psl = s.psl := by simp [State.setReg]
@[simp] theorem State.setReg_ivb (s : State) (r : Reg) (v : Byte) : (s.setReg r v).ivb = s.ivb := by simp [State.setReg]
@[simp] theorem State.setReg_trapp (s : State) (r : Reg) (v : Byte) : (s.setReg r v).trapp = s.trapp := by simp [State.setReg]
@[simp] theorem State.setReg_halted (s : State) (r : Reg) (v : Byte) : (s.setReg r v).halted = s.halted := by simp [State.setReg]
@[simp] theorem State.setReg_irqPending (s : State) (r : Reg) (v : Byte) : (s.setReg r v).irqPending = s.irqPending := by simp [State.setReg]
@[simp] theorem State.setReg_mem (s : State) (r : Reg) (v : Byte) : (s.setReg r v).mem = s.mem := by simp [State.setReg]
@[simp] theorem State.setReg_memMap (s : State) (r : Reg) (v : Byte) : (s.setReg r v).memMap = s.memMap := by simp [State.setReg]
@[simp] theorem State.setReg_trace (s : State) (r : Reg) (v : Byte) : (s.setReg r v).trace = s.trace := by simp [State.setReg]
@[simp] theorem State.setReg_draws (s : State) (r : Reg) (v : Byte) : (s.setReg r v).draws = s.draws := by simp [State.setReg]
@[simp] theorem State.setReg_carry (s : State) (r : Reg) (v : Byte) : (s.setReg r v).carry = s.carry := by simp [State.setReg]
@[simp] theorem State.setReg_com (s : State) (r : Reg) (v : Byte) : (s.setReg r v).com = s.com := by simp [State.setReg]
@[simp] theorem State.setReg_ovf (s : State) (r : Reg) (v : Byte) : (s.setReg r v).ovf = s.ovf := by simp [State.setReg]
@[simp] theorem State.setReg_wc (s : State) (r : Reg) (v : Byte) : (s.setReg r v).wc = s.wc := by simp [State.setReg]
@[simp] theorem State.setReg_rs (s : State) (r : Reg) (v : Byte) : (s.setReg r v).rs = s.rs := by simp [State.setReg]
@[simp] theorem State.setReg_idc (s : State) (r : Reg) (v : Byte) : (s.setReg r v).idc = s.idc := by simp [State.setReg]
@[simp] theorem State.setReg_cc (s : State) (r : Reg) (v : Byte) : (s.setReg r v).cc = s.cc := by simp [State.setReg]
@[simp] theorem State.setReg_sp (s : State) (r : Reg) (v : Byte) : (s.setReg r v).sp = s.sp := by simp [State.setReg]
@[simp] theorem State.setReg_ii (s : State) (r : Reg) (v : Byte) : (s.setReg r v).ii = s.ii := by simp [State.setReg]
@[simp] theorem State.setReg_flagOut (s : State) (r : Reg) (v : Byte) : (s.setReg r v).flagOut = s.flagOut := by simp [State.setReg]
@[simp] theorem State.setReg_page (s : State) (r : Reg) (v : Byte) : (s.setReg r v).page = s.page := by simp [State.setReg]
@[simp] theorem State.setReg_pc (s : State) (r : Reg) (v : Byte) : (s.setReg r v).pc = s.pc := by simp [State.setReg]
@[simp] theorem State.setReg_stackAt (s : State) (r : Reg) (v : Byte) (j : BitVec 4) : (s.setReg r v).stackAt j = s.stackAt j := by
  simp [State.setReg]
@[simp] theorem State.setReg_byteAt (s : State) (r : Reg) (v : Byte) (a : Word) : (s.setReg r v).byteAt a = s.byteAt a := by
  simp [State.setReg]
@[simp] theorem State.setReg_mapKind (s : State) (r : Reg) (v : Byte) (a : Word) : (s.setReg r v).mapKind a = s.mapKind a := by
  simp [State.setReg]
@[simp] theorem State.setReg_memRead (s : State) (r : Reg) (v : Byte) (k : MemAccess) (a : Word) : (s.setReg r v).memRead k a = s.memRead k a := by
  simp [State.setReg]

@[simp] theorem State.setReg_phys (s : State) (r : Reg) (v : Byte) (q : PhysReg) :
    (s.setReg r v).phys q = if q = physOf s.rs r then v else s.phys q := by
  simp [State.setReg]

/-- Two indices select one register only if they are the same index. -/
@[simp] theorem physOf_inj (b : Bool) (r q : Reg) : physOf b r = physOf b q ↔ r = q := by
  cases b <;> cases r <;> cases q <;> decide

@[simp] theorem State.setReg_reg (s : State) (r q : Reg) (v : Byte) :
    (s.setReg r v).reg q = if q = r then v else s.reg q := by
  simp [State.reg]

/-! ## memWrite -/

@[simp] theorem State.memWrite_r0 (s : State) (a : Word) (v : Byte) : (s.memWrite a v).r0 = s.r0 := by
  unfold State.memWrite; split <;> rfl
@[simp] theorem State.memWrite_r1 (s : State) (a : Word) (v : Byte) : (s.memWrite a v).r1 = s.r1 := by
  unfold State.memWrite; split <;> rfl
@[simp] theorem State.memWrite_r2 (s : State) (a : Word) (v : Byte) : (s.memWrite a v).r2 = s.r2 := by
  unfold State.memWrite; split <;> rfl
@[simp] theorem State.memWrite_r3 (s : State) (a : Word) (v : Byte) : (s.memWrite a v).r3 = s.r3 := by
  unfold State.memWrite; split <;> rfl
@[simp] theorem State.memWrite_r1b (s : State) (a : Word) (v : Byte) : (s.memWrite a v).r1b = s.r1b := by
  unfold State.memWrite; split <;> rfl
@[simp] theorem State.memWrite_r2b (s : State) (a : Word) (v : Byte) : (s.memWrite a v).r2b = s.r2b := by
  unfold State.memWrite; split <;> rfl
@[simp] theorem State.memWrite_r3b (s : State) (a : Word) (v : Byte) : (s.memWrite a v).r3b = s.r3b := by
  unfold State.memWrite; split <;> rfl
@[simp] theorem State.memWrite_stack (s : State) (a : Word) (v : Byte) : (s.memWrite a v).stack = s.stack := by
  unfold State.memWrite; split <;> rfl
@[simp] theorem State.memWrite_ip (s : State) (a : Word) (v : Byte) : (s.memWrite a v).ip = s.ip := by
  unfold State.memWrite; split <;> rfl
@[simp] theorem State.memWrite_psu (s : State) (a : Word) (v : Byte) : (s.memWrite a v).psu = s.psu := by
  unfold State.memWrite; split <;> rfl
@[simp] theorem State.memWrite_psl (s : State) (a : Word) (v : Byte) : (s.memWrite a v).psl = s.psl := by
  unfold State.memWrite; split <;> rfl
@[simp] theorem State.memWrite_ivb (s : State) (a : Word) (v : Byte) : (s.memWrite a v).ivb = s.ivb := by
  unfold State.memWrite; split <;> rfl
@[simp] theorem State.memWrite_trapp (s : State) (a : Word) (v : Byte) : (s.memWrite a v).trapp = s.trapp := by
  unfold State.memWrite; split <;> rfl
@[simp] theorem State.memWrite_halted (s : State) (a : Word) (v : Byte) : (s.memWrite a v).halted = s.halted := by
  unfold State.memWrite; split <;> rfl
@[simp] theorem State.memWrite_irqPending (s : State) (a : Word) (v : Byte) : (s.memWrite a v).irqPending = s.irqPending := by
  unfold State.memWrite; split <;> rfl
@[simp] theorem State.memWrite_memMap (s : State) (a : Word) (v : Byte) : (s.memWrite a v).memMap = s.memMap := by
  unfold State.memWrite; split <;> rfl
@[simp] theorem State.memWrite_draws (s : State) (a : Word) (v : Byte) : (s.memWrite a v).draws = s.draws := by
  unfold State.memWrite; split <;> rfl
@[simp] theorem State.memWrite_phys (s : State) (a : Word) (v : Byte) (p : PhysReg) : (s.memWrite a v).phys p = s.phys p := by
  cases p <;> simp [State.phys]
@[simp] theorem State.memWrite_stackAt (s : State) (a : Word) (v : Byte) (j : BitVec 4) : (s.memWrite a v).stackAt j = s.stackAt j := by
  simp [State.stackAt]
@[simp] theorem State.memWrite_mapKind (s : State) (a : Word) (v : Byte) (b : Word) : (s.memWrite a v).mapKind b = s.mapKind b := by
  simp [State.mapKind]

/-! ## The stack -/

@[simp] theorem State.setStack_stackAt (s : State) (k j : BitVec 4) (v : Word) :
    (s.setStack k v).stackAt j = if j = k then v else s.stackAt j := by
  by_cases h : j = k
  · subst h; simp [State.stackAt, State.setStack]
  · have h' : ¬ k.toNat = j.toNat := fun e => h (BitVec.eq_of_toNat_eq e.symm)
    simp [State.stackAt, State.setStack, h, h']

end Sys2Proof.Machine
end

