-- ==== Sys2Proof/Laws/Flags.lean ====
section
/-! SUPPORT. What the fields of PSL and PSU read after each update of them. -/

namespace Sys2Proof.Machine

/-- A bit of `withBit`: the one written, or the old one. -/
theorem withBit_getLsbD (b : Byte) (k : Nat) (v : Bool) (j : Nat) (hk : k < 8) (hj : j < 8) :
    (withBit b k v).getLsbD j = if j = k then v else b.getLsbD j := by
  unfold withBit
  by_cases h : j = k
  · subst h
    rw [if_pos rfl]
    cases v
    · rw [if_neg (by decide), BitVec.getLsbD_and, BitVec.getLsbD_not, BitVec.getLsbD_shiftLeft, BitVec.getLsbD_one]
      simp [hj]
    · rw [if_pos rfl, BitVec.getLsbD_or, BitVec.getLsbD_shiftLeft, BitVec.getLsbD_one]
      simp [hj]
  · have h2 : ¬ (k ≤ j ∧ j - k = 0) := by omega
    rw [if_neg h]
    cases v
    · rw [if_neg (by decide), BitVec.getLsbD_and, BitVec.getLsbD_not, BitVec.getLsbD_shiftLeft, BitVec.getLsbD_one]
      simp [hj]
      omega
    · rw [if_pos rfl, BitVec.getLsbD_or, BitVec.getLsbD_shiftLeft, BitVec.getLsbD_one]
      simp [hj]
      omega

/-- A field that does not hold the bit written. -/
theorem withBit_extract (b : Byte) (k : Nat) (v : Bool) (st n : Nat) (hk : k < 8) (hn : st + n ≤ 8)
    (h : k < st ∨ st + n ≤ k) : (withBit b k v).extractLsb' st n = b.extractLsb' st n := by
  apply BitVec.eq_of_getLsbD_eq
  intro i hi
  rw [BitVec.getLsbD_extractLsb', BitVec.getLsbD_extractLsb',
    withBit_getLsbD b k v (st + i) hk (by omega), if_neg (by omega)]

/-- A bit of PSL after CC is written (R33). -/
theorem setCC_getLsbD (b : Byte) (c : BitVec 2) (j : Nat) (_hj : j < 8) :
    BitVec.getLsbD (w := 8) (c ++ b.extractLsb' 0 6) j = if j < 6 then b.getLsbD j else c.getLsbD (j - 6) := by
  refine BitVec.getLsbD_append.trans ?_
  by_cases h : j < 6
  · rw [if_pos h, if_pos h, BitVec.getLsbD_extractLsb', Nat.zero_add, decide_eq_true h, Bool.true_and]
  · rw [if_neg h, if_neg h]

/-- A bit of PSU after SP is written (R27). -/
theorem setSp_getLsbD (b : Byte) (n : BitVec 4) (j : Nat) (hj : j < 8) :
    BitVec.getLsbD (w := 8) (b.extractLsb' 4 4 ++ n) j = if j < 4 then n.getLsbD j else b.getLsbD j := by
  refine BitVec.getLsbD_append.trans ?_
  by_cases h : j < 4
  · rw [if_pos h, if_pos h]
  · have h1 : j - 4 < 4 := by omega
    have h2 : 4 + (j - 4) = j := by omega
    rw [if_neg h, if_neg h, BitVec.getLsbD_extractLsb', h2, decide_eq_true h1, Bool.true_and]

/-- A bit of PSU after PSU is written (R31): bit 7 is not stored. -/
theorem setPsu_getLsbD (b : Byte) (j : Nat) (hj : j < 8) :
    (b &&& 0x7F#8).getLsbD j = (decide (j ≠ 7) && b.getLsbD j) := by
  rw [BitVec.getLsbD_and, Bool.and_comm]
  congr 1
  revert j
  decide

@[simp] theorem State.setCarry_carry (s : State) (v : Bool) : (s.setCarry v).carry = v :=
  (withBit_getLsbD s.psl 0 v 0 (by decide) (by decide)).trans (if_pos rfl)
@[simp] theorem State.setCarry_com (s : State) (v : Bool) : (s.setCarry v).com = s.com :=
  (withBit_getLsbD s.psl 0 v 1 (by decide) (by decide)).trans (if_neg (by decide))
@[simp] theorem State.setCarry_ovf (s : State) (v : Bool) : (s.setCarry v).ovf = s.ovf :=
  (withBit_getLsbD s.psl 0 v 2 (by decide) (by decide)).trans (if_neg (by decide))
@[simp] theorem State.setCarry_wc (s : State) (v : Bool) : (s.setCarry v).wc = s.wc :=
  (withBit_getLsbD s.psl 0 v 3 (by decide) (by decide)).trans (if_neg (by decide))
@[simp] theorem State.setCarry_rs (s : State) (v : Bool) : (s.setCarry v).rs = s.rs :=
  (withBit_getLsbD s.psl 0 v 4 (by decide) (by decide)).trans (if_neg (by decide))
@[simp] theorem State.setCarry_idc (s : State) (v : Bool) : (s.setCarry v).idc = s.idc :=
  (withBit_getLsbD s.psl 0 v 5 (by decide) (by decide)).trans (if_neg (by decide))
@[simp] theorem State.setCarry_cc (s : State) (v : Bool) : (s.setCarry v).cc = s.cc :=
  withBit_extract s.psl 0 v 6 2 (by decide) (by decide) (by decide)
@[simp] theorem State.setCarry_reg (s : State) (v : Bool) (r : Reg) : (s.setCarry v).reg r = s.reg r := by
  unfold State.reg
  rw [State.setCarry_rs]
  cases physOf s.rs r <;> rfl

@[simp] theorem State.setOvf_carry (s : State) (v : Bool) : (s.setOvf v).carry = s.carry :=
  (withBit_getLsbD s.psl 2 v 0 (by decide) (by decide)).trans (if_neg (by decide))
@[simp] theorem State.setOvf_com (s : State) (v : Bool) : (s.setOvf v).com = s.com :=
  (withBit_getLsbD s.psl 2 v 1 (by decide) (by decide)).trans (if_neg (by decide))
@[simp] theorem State.setOvf_ovf (s : State) (v : Bool) : (s.setOvf v).ovf = v :=
  (withBit_getLsbD s.psl 2 v 2 (by decide) (by decide)).trans (if_pos rfl)
@[simp] theorem State.setOvf_wc (s : State) (v : Bool) : (s.setOvf v).wc = s.wc :=
  (withBit_getLsbD s.psl 2 v 3 (by decide) (by decide)).trans (if_neg (by decide))
@[simp] theorem State.setOvf_rs (s : State) (v : Bool) : (s.setOvf v).rs = s.rs :=
  (withBit_getLsbD s.psl 2 v 4 (by decide) (by decide)).trans (if_neg (by decide))
@[simp] theorem State.setOvf_idc (s : State) (v : Bool) : (s.setOvf v).idc = s.idc :=
  (withBit_getLsbD s.psl 2 v 5 (by decide) (by decide)).trans (if_neg (by decide))
@[simp] theorem State.setOvf_cc (s : State) (v : Bool) : (s.setOvf v).cc = s.cc :=
  withBit_extract s.psl 2 v 6 2 (by decide) (by decide) (by decide)
@[simp] theorem State.setOvf_reg (s : State) (v : Bool) (r : Reg) : (s.setOvf v).reg r = s.reg r := by
  unfold State.reg
  rw [State.setOvf_rs]
  cases physOf s.rs r <;> rfl

@[simp] theorem State.setIdc_carry (s : State) (v : Bool) : (s.setIdc v).carry = s.carry :=
  (withBit_getLsbD s.psl 5 v 0 (by decide) (by decide)).trans (if_neg (by decide))
@[simp] theorem State.setIdc_com (s : State) (v : Bool) : (s.setIdc v).com = s.com :=
  (withBit_getLsbD s.psl 5 v 1 (by decide) (by decide)).trans (if_neg (by decide))
@[simp] theorem State.setIdc_ovf (s : State) (v : Bool) : (s.setIdc v).ovf = s.ovf :=
  (withBit_getLsbD s.psl 5 v 2 (by decide) (by decide)).trans (if_neg (by decide))
@[simp] theorem State.setIdc_wc (s : State) (v : Bool) : (s.setIdc v).wc = s.wc :=
  (withBit_getLsbD s.psl 5 v 3 (by decide) (by decide)).trans (if_neg (by decide))
@[simp] theorem State.setIdc_rs (s : State) (v : Bool) : (s.setIdc v).rs = s.rs :=
  (withBit_getLsbD s.psl 5 v 4 (by decide) (by decide)).trans (if_neg (by decide))
@[simp] theorem State.setIdc_idc (s : State) (v : Bool) : (s.setIdc v).idc = v :=
  (withBit_getLsbD s.psl 5 v 5 (by decide) (by decide)).trans (if_pos rfl)
@[simp] theorem State.setIdc_cc (s : State) (v : Bool) : (s.setIdc v).cc = s.cc :=
  withBit_extract s.psl 5 v 6 2 (by decide) (by decide) (by decide)
@[simp] theorem State.setIdc_reg (s : State) (v : Bool) (r : Reg) : (s.setIdc v).reg r = s.reg r := by
  unfold State.reg
  rw [State.setIdc_rs]
  cases physOf s.rs r <;> rfl

@[simp] theorem State.setCC_carry (s : State) (c : BitVec 2) : (s.setCC c).carry = s.carry :=
  (setCC_getLsbD s.psl c 0 (by decide)).trans (if_pos (by decide))
@[simp] theorem State.setCC_com (s : State) (c : BitVec 2) : (s.setCC c).com = s.com :=
  (setCC_getLsbD s.psl c 1 (by decide)).trans (if_pos (by decide))
@[simp] theorem State.setCC_ovf (s : State) (c : BitVec 2) : (s.setCC c).ovf = s.ovf :=
  (setCC_getLsbD s.psl c 2 (by decide)).trans (if_pos (by decide))
@[simp] theorem State.setCC_wc (s : State) (c : BitVec 2) : (s.setCC c).wc = s.wc :=
  (setCC_getLsbD s.psl c 3 (by decide)).trans (if_pos (by decide))
@[simp] theorem State.setCC_rs (s : State) (c : BitVec 2) : (s.setCC c).rs = s.rs :=
  (setCC_getLsbD s.psl c 4 (by decide)).trans (if_pos (by decide))
@[simp] theorem State.setCC_idc (s : State) (c : BitVec 2) : (s.setCC c).idc = s.idc :=
  (setCC_getLsbD s.psl c 5 (by decide)).trans (if_pos (by decide))
@[simp] theorem State.setCC_cc (s : State) (c : BitVec 2) : (s.setCC c).cc = c := by
  apply BitVec.eq_of_getLsbD_eq
  intro i hi
  refine (BitVec.getLsbD_extractLsb' ..).trans ?_
  rw [decide_eq_true hi, Bool.true_and]
  refine (setCC_getLsbD s.psl c (6 + i) (by omega)).trans ?_
  rw [if_neg (by omega), Nat.add_sub_cancel_left]
@[simp] theorem State.setCC_reg (s : State) (c : BitVec 2) (r : Reg) : (s.setCC c).reg r = s.reg r := by
  unfold State.reg
  rw [State.setCC_rs]
  cases physOf s.rs r <;> rfl

@[simp] theorem State.setSp_sp (s : State) (n : BitVec 4) : (s.setSp n).sp = n := by
  apply BitVec.eq_of_getLsbD_eq
  intro i hi
  refine (BitVec.getLsbD_extractLsb' ..).trans ?_
  rw [decide_eq_true hi, Bool.true_and, Nat.zero_add]
  exact (setSp_getLsbD s.psu n i (by omega)).trans (if_pos hi)
@[simp] theorem State.setSp_ii (s : State) (n : BitVec 4) : (s.setSp n).ii = s.ii :=
  (setSp_getLsbD s.psu n 5 (by decide)).trans (if_neg (by decide))
@[simp] theorem State.setSp_flagOut (s : State) (n : BitVec 4) : (s.setSp n).flagOut = s.flagOut :=
  (setSp_getLsbD s.psu n 6 (by decide)).trans (if_neg (by decide))
@[simp] theorem State.setII_ii (s : State) (v : Bool) : (s.setII v).ii = v :=
  (withBit_getLsbD s.psu 5 v 5 (by decide) (by decide)).trans (if_pos rfl)
@[simp] theorem State.setII_flagOut (s : State) (v : Bool) : (s.setII v).flagOut = s.flagOut :=
  (withBit_getLsbD s.psu 5 v 6 (by decide) (by decide)).trans (if_neg (by decide))
@[simp] theorem State.setII_sp (s : State) (v : Bool) : (s.setII v).sp = s.sp :=
  withBit_extract s.psu 5 v 0 4 (by decide) (by decide) (by decide)

/-! ## SetCC and the arithmetic flags -/

@[simp] theorem State.setCCFor_eq (s : State) (v : Byte) : s.setCCFor v = s.setCC (ccOf v) := rfl

/-- What an addition or subtraction leaves in PSL besides CC (R141, R142). -/
theorem State.setArith_flags (s : State) (x : AluResult) :
    (s.setArith x).carry = x.c ∧ (s.setArith x).idc = x.idc ∧ (s.setArith x).ovf = x.ovf ∧
      (s.setArith x).cc = s.cc ∧ (s.setArith x).rs = s.rs ∧ (s.setArith x).wc = s.wc ∧ (s.setArith x).com = s.com := by
  simp [State.setArith]

end Sys2Proof.Machine
end

