-- ==== Sys2Proof/Laws/Memory.lean ====
section
/-! SUPPORT. The laws of memory: a read after a write, and that every memory operation keeps the canonical form. -/

namespace Sys2Proof.Machine

theorem Memory.get?_put_self (m : List Host.Cell) (a : Nat) (v : Byte) : Memory.get? (Memory.put m a v) a = some v := by
  induction m with
  | nil => simp [Memory.put, Memory.get?]
  | cons c m ih =>
    obtain ⟨k, w⟩ := c
    unfold Memory.put
    split
    · simp [Memory.get?]
    · split
      · simp [Memory.get?]
      · next h1 h2 => simp [Memory.get?, ih, Ne.symm h2]

theorem Memory.get?_put_of_ne (m : List Host.Cell) (a b : Nat) (v : Byte) (h : b ≠ a) :
    Memory.get? (Memory.put m a v) b = Memory.get? m b := by
  induction m with
  | nil => simp [Memory.put, Memory.get?, Ne.symm h]
  | cons c m ih =>
    obtain ⟨k, w⟩ := c
    unfold Memory.put
    split
    · simp [Memory.get?, Ne.symm h]
    · split
      · next h1 h2 => subst h2; simp [Memory.get?, Ne.symm h]
      · simp [Memory.get?, ih]

theorem Memory.risingFrom_put (m : List Host.Cell) (low a : Nat) (v : Byte) (hm : Memory.risingFrom low m = true)
    (hl : low ≤ a) (ha : a < 65536) : Memory.risingFrom low (Memory.put m a v) = true := by
  induction m generalizing low with
  | nil => simp [Memory.put, Memory.risingFrom, hl, ha]
  | cons c m ih =>
    obtain ⟨k, w⟩ := c
    simp only [Memory.risingFrom, Bool.and_eq_true, decide_eq_true_eq] at hm
    obtain ⟨⟨h1, h2⟩, h3⟩ := hm
    unfold Memory.put
    split
    · next h => simp [Memory.risingFrom, hl, ha, h2, h3]; omega
    · split
      · next h h' => subst h'; simp [Memory.risingFrom, hl, ha, h3]
      · next h h' => simp [Memory.risingFrom, h1, h2]; exact ih (k + 1) h3 (by omega)

/-- A write keeps the canonical form. -/
theorem Memory.wf_put (m : List Host.Cell) (a : Word) (v : Byte) (hm : Memory.wf m = true) :
    Memory.wf (Memory.put m a.toNat v) = true :=
  Memory.risingFrom_put m 0 a.toNat v hm (Nat.zero_le _) a.isLt

/-- MemWrite keeps the canonical form. -/
theorem State.memWrite_wf (s : State) (a : Word) (v : Byte) (h : Memory.wf s.mem = true) :
    Memory.wf (s.memWrite a v).mem = true := by
  unfold State.memWrite
  split
  · exact Memory.wf_put _ _ _ h
  · exact h
  · exact h
  · exact h

/-- The loading of a program keeps the canonical form. -/
theorem storeInPage_wf (a : Word) (bs : List Byte) (s : State) (h : Memory.wf s.mem = true) :
    Memory.wf (storeInPage a bs s).mem = true := by
  induction bs generalizing a s with
  | nil => exact h
  | cons b bs ih => exact ih _ _ (Memory.wf_put _ _ _ h)

/-- The memory of the reset state has the canonical form. -/
theorem reset_mem_wf : Memory.wf State.reset.mem = true := rfl

/-- MemWrite, once and for all (R65): what it does is decided by what the platform has at the address. -/
theorem State.memWrite_spec (s : State) (a : Word) (v : Byte) :
    (s.mapKind a = some .ram ∧ s.memWrite a v = { s with mem := Memory.put s.mem a.toNat v }) ∨
    ((s.mapKind a = some .rom ∨ s.mapKind a = none) ∧ s.memWrite a v = s) ∨
    (s.mapKind a = some .device ∧ s.memWrite a v = s.record [.deviceWrite a v]) := by
  unfold State.memWrite
  split <;> simp_all [State.record]

/-- What a read of one byte records (R76): one transaction at a device address, none anywhere else. -/
theorem State.memReads_spec (s : State) (k : MemAccess) (a : Word) :
    (s.mapKind a = some .device ∧ s.memReads k a = [.deviceRead a (s.memRead k a)]) ∨
    (s.mapKind a ≠ some .device ∧ s.memReads k a = []) := by
  unfold State.memReads
  split <;> simp_all

/-- A write leaves the byte held at every other address. -/
theorem State.memWrite_byteAt_of_ne (s : State) (a b : Word) (v : Byte) (h : b ≠ a) :
    (s.memWrite a v).byteAt b = s.byteAt b := by
  have hn : b.toNat ≠ a.toNat := fun e => h (BitVec.eq_of_toNat_eq e)
  obtain ⟨_, e⟩ | ⟨_, e⟩ | ⟨_, e⟩ := s.memWrite_spec a v
  · rw [e]; simp [State.byteAt, Memory.get?_put_of_ne _ _ _ _ hn]
  · rw [e]
  · rw [e]; rfl

/-- A store to RAM is seen by every later read of its address (R65, R71). -/
theorem State.memWrite_memRead_self (s : State) (a : Word) (v : Byte) (k : MemAccess) (h : s.mapKind a = some .ram) :
    (s.memWrite a v).memRead k a = v := by
  have e : s.memWrite a v = { s with mem := Memory.put s.mem a.toNat v } := by unfold State.memWrite; rw [h]
  have h' : (s.memWrite a v).mapKind a = some .ram := by simpa using h
  unfold State.memRead
  rw [h', e]
  simp [Memory.get?_put_self]

end Sys2Proof.Machine
end

