-- ==== Sys2Proof/Laws/Frame.lean ====
section
/-! SUPPORT. The frames of the primitive updates of State, and that frames compose. -/

namespace Sys2Proof.Machine

/-- What one change after another may change. -/
def MayChange.and (c d : MayChange) : MayChange where
  regs := c.regs ++ d.regs
  psl := c.psl ++ d.psl
  psu := c.psu ++ d.psu
  stack := c.stack ++ d.stack
  ip := c.ip || d.ip
  ivb := c.ivb || d.ivb
  trapp := c.trapp || d.trapp
  halted := c.halted || d.halted
  mem := c.mem ++ d.mem
  trace := c.trace || d.trace

/-- `d` allows whatever `c` allows. -/
def MayChange.within (c d : MayChange) : Prop :=
  (∀ p ∈ c.regs, p ∈ d.regs) ∧ (∀ k ∈ c.psl, k ∈ d.psl) ∧ (∀ k ∈ c.psu, k ∈ d.psu) ∧ (∀ k ∈ c.stack, k ∈ d.stack) ∧
  (c.ip = true → d.ip = true) ∧ (c.ivb = true → d.ivb = true) ∧ (c.trapp = true → d.trapp = true) ∧
  (c.halted = true → d.halted = true) ∧ (∀ a ∈ c.mem, a ∈ d.mem) ∧ (c.trace = true → d.trace = true)

theorem Frame.refl (c : MayChange) (s : State) : Frame c s s :=
  ⟨fun _ _ => rfl, fun _ _ _ => rfl, fun _ _ _ => rfl, fun _ _ => rfl, fun _ => rfl, fun _ => rfl, fun _ => rfl,
    fun _ => rfl, fun _ _ => rfl, fun _ => rfl, rfl, rfl, rfl⟩

theorem Frame.trans {c d : MayChange} {s t u : State} (h : Frame c s t) (k : Frame d t u) : Frame (c.and d) s u := by
  obtain ⟨h1, h2, h3, h4, h5, h6, h7, h8, h9, h10, h11, h12, h13⟩ := h
  obtain ⟨k1, k2, k3, k4, k5, k6, k7, k8, k9, k10, k11, k12, k13⟩ := k
  simp only [Frame, MayChange.and, List.mem_append, not_or, Bool.or_eq_false_iff]
  exact ⟨fun p hp => (k1 p hp.2).trans (h1 p hp.1), fun j hj hp => (k2 j hj hp.2).trans (h2 j hj hp.1),
    fun j hj hp => (k3 j hj hp.2).trans (h3 j hj hp.1), fun j hp => (k4 j hp.2).trans (h4 j hp.1),
    fun hp => (k5 hp.2).trans (h5 hp.1), fun hp => (k6 hp.2).trans (h6 hp.1), fun hp => (k7 hp.2).trans (h7 hp.1),
    fun hp => (k8 hp.2).trans (h8 hp.1), fun a hp => (k9 a hp.2).trans (h9 a hp.1),
    fun hp => (k10 hp.2).trans (h10 hp.1), k11.trans h11, k12.trans h12, k13.trans h13⟩

theorem Frame.mono {c d : MayChange} {s t : State} (h : Frame c s t) (w : c.within d) : Frame d s t := by
  obtain ⟨h1, h2, h3, h4, h5, h6, h7, h8, h9, h10, h11, h12, h13⟩ := h
  obtain ⟨w1, w2, w3, w4, w5, w6, w7, w8, w9, w10⟩ := w
  have b : ∀ {x y : Bool}, (x = true → y = true) → y = false → x = false := by decide
  exact ⟨fun p hp => h1 p fun q => hp (w1 p q), fun j hj hp => h2 j hj fun q => hp (w2 j q),
    fun j hj hp => h3 j hj fun q => hp (w3 j q), fun j hp => h4 j fun q => hp (w4 j q), fun hp => h5 (b w5 hp),
    fun hp => h6 (b w6 hp), fun hp => h7 (b w7 hp), fun hp => h8 (b w8 hp), fun a hp => h9 a fun q => hp (w9 a q),
    fun hp => h10 (b w10 hp), h11, h12, h13⟩

/-! ## The primitive updates -/

theorem State.setPhys_frame (s : State) (p : PhysReg) (v : Byte) : Frame { regs := [p] } s (s.setPhys p v) := by
  refine ⟨fun q hq => ?_, ?_, ?_, ?_, ?_, ?_, ?_, ?_, ?_, ?_, ?_, ?_, ?_⟩
  · rw [State.setPhys_phys, if_neg (by simpa using hq)]
  all_goals intros
  all_goals simp

/-- `x[r] <- v` changes the register `x[r]` names, and no other (R21). -/
theorem State.setReg_frame (s : State) (r : Reg) (v : Byte) : Frame { regs := [physOf s.rs r] } s (s.setReg r v) :=
  s.setPhys_frame _ v

/-- A change of PSL that keeps the bits outside a list. -/
theorem State.setPsl_frame (s : State) (v : Byte) (bits : List Nat)
    (h : ∀ k, k < 8 → k ∉ bits → v.getLsbD k = s.psl.getLsbD k) : Frame { psl := bits } s (s.setPsl v) :=
  ⟨fun p _ => by cases p <;> rfl, h, fun _ _ _ => rfl, fun _ _ => rfl, fun _ => rfl, fun _ => rfl, fun _ => rfl,
    fun _ => rfl, fun _ _ => rfl, fun _ => rfl, rfl, rfl, rfl⟩

theorem State.setCarry_frame (s : State) (v : Bool) : Frame { psl := [0] } s (s.setCarry v) :=
  s.setPsl_frame _ _ fun k hk h => (withBit_getLsbD s.psl 0 v k (by decide) hk).trans (if_neg (by simpa using h))

theorem State.setOvf_frame (s : State) (v : Bool) : Frame { psl := [2] } s (s.setOvf v) :=
  s.setPsl_frame _ _ fun k hk h => (withBit_getLsbD s.psl 2 v k (by decide) hk).trans (if_neg (by simpa using h))

theorem State.setIdc_frame (s : State) (v : Bool) : Frame { psl := [5] } s (s.setIdc v) :=
  s.setPsl_frame _ _ fun k hk h => (withBit_getLsbD s.psl 5 v k (by decide) hk).trans (if_neg (by simpa using h))

theorem State.setCC_frame (s : State) (c : BitVec 2) : Frame { psl := ccBits } s (s.setCC c) :=
  s.setPsl_frame _ _ fun k hk h =>
    (setCC_getLsbD s.psl c k hk).trans (if_pos (by simp only [ccBits, List.mem_cons, List.not_mem_nil] at h; omega))

/-- A change of the PSU field that keeps the bits outside a list. -/
theorem State.psu_frame (s : State) (v : Byte) (bits : List Nat)
    (h : ∀ k, k < 8 → k ∉ bits → v.getLsbD k = s.psu.getLsbD k) : Frame { psu := bits } s { s with psu := v } :=
  ⟨fun p _ => by cases p <;> rfl, fun _ _ _ => rfl, h, fun _ _ => rfl, fun _ => rfl, fun _ => rfl, fun _ => rfl,
    fun _ => rfl, fun _ _ => rfl, fun _ => rfl, rfl, rfl, rfl⟩

theorem State.setSp_frame (s : State) (n : BitVec 4) : Frame { psu := spBits } s (s.setSp n) :=
  s.psu_frame _ _ fun k hk h =>
    (setSp_getLsbD s.psu n k hk).trans (if_neg (by simp only [spBits, List.mem_cons, List.not_mem_nil] at h; omega))

theorem State.setII_frame (s : State) (v : Bool) : Frame { psu := [5] } s (s.setII v) :=
  s.psu_frame _ _ fun k hk h => (withBit_getLsbD s.psu 5 v k (by decide) hk).trans (if_neg (by simpa using h))

/-- A write of PSU may change every bit of it (R31). -/
theorem State.setPsu_frame (s : State) (v : Byte) : Frame { psu := [7, 6, 5, 4, 3, 2, 1, 0] } s (s.setPsu v) :=
  s.psu_frame _ _ fun k hk h => absurd h (by simp only [List.mem_cons, List.not_mem_nil]; omega)

theorem State.setIp_frame (s : State) (a : Word) : Frame { ip := true } s (s.setIp a) :=
  ⟨fun p _ => by cases p <;> rfl, fun _ _ _ => rfl, fun _ _ _ => rfl, fun _ _ => rfl, fun h => Bool.noConfusion h, fun _ => rfl,
    fun _ => rfl, fun _ => rfl, fun _ _ => rfl, fun _ => rfl, rfl, rfl, rfl⟩

theorem State.setStack_frame (s : State) (k : BitVec 4) (v : Word) : Frame { stack := [k] } s (s.setStack k v) :=
  ⟨fun p _ => by cases p <;> rfl, fun _ _ _ => rfl, fun _ _ _ => rfl,
    fun j h => (State.setStack_stackAt s k j v).trans (if_neg (by simpa using h)), fun _ => rfl, fun _ => rfl,
    fun _ => rfl, fun _ => rfl, fun _ _ => rfl, fun _ => rfl, rfl, rfl, rfl⟩

theorem State.record_frame (s : State) (ts : List Transaction) : Frame { trace := true } s (s.record ts) :=
  ⟨fun p _ => by cases p <;> rfl, fun _ _ _ => rfl, fun _ _ _ => rfl, fun _ _ => rfl, fun _ => rfl, fun _ => rfl,
    fun _ => rfl, fun _ => rfl, fun _ _ => rfl, fun h => Bool.noConfusion h, rfl, rfl, rfl⟩

theorem State.memWrite_frame (s : State) (a : Word) (v : Byte) : Frame { mem := [a], trace := true } s (s.memWrite a v) := by
  have hb : ∀ b, b ∉ [a] → (s.memWrite a v).byteAt b = s.byteAt b :=
    fun b h => s.memWrite_byteAt_of_ne a b v (by simpa using h)
  refine ⟨?_, ?_, ?_, ?_, ?_, ?_, ?_, ?_, hb, fun h => Bool.noConfusion h, ?_, ?_, ?_⟩
  all_goals intros
  all_goals simp

end Sys2Proof.Machine
end

