-- ==== Sys2Proof/Laws/Ops.lean ====
section
/-! SUPPORT. For each shared operation, one lemma that says what it does; provers cite these and unfold nothing. -/

namespace Sys2Proof.Machine

/-! ## Registers -/

@[simp] theorem physOf_r0 (rs : Bool) : physOf rs .r0 = .r0 := rfl

/-- A register after a write of one (R21). -/
theorem State.reg_setReg (s : State) (r q : Reg) (v : Byte) : (s.setReg r v).reg q = if q = r then v else s.reg q := by
  have h : (s.setReg r v).reg q = (s.setReg r v).phys (physOf s.rs q) := by
    unfold State.reg
    rw [show (s.setReg r v).rs = s.rs from State.setPhys_rs s _ v]
  rw [h]
  refine (State.setPhys_phys s _ _ v).trans ?_
  by_cases e : q = r
  · rw [if_pos e, if_pos ((physOf_inj s.rs q r).mpr e)]
  · rw [if_neg e, if_neg fun h => e ((physOf_inj s.rs q r).mp h)]
    rfl

/-- What depends only on PSL and the registers is the same in two states that agree on them. -/
theorem State.reg_congr (s t : State) (q : Reg) (h : t.rs = s.rs) (hp : ∀ p, t.phys p = s.phys p) : t.reg q = s.reg q := by
  unfold State.reg
  rw [h, hp]

/-! ## The Condition Code -/

/-- SetCC sets CC by the sign of the value (R40). -/
theorem ccOf_shows (v : Byte) : CCShows v.toInt (ccOf v) := by
  revert v
  unfold CCShows
  decide

/-- CC is never 11 after SetCC (R41). -/
theorem ccOf_ne (v : Byte) : ccOf v ≠ 3#2 := by
  unfold ccOf
  split
  · decide
  · split <;> decide

/-- The Condition Code of a 16-bit product shows its sign (R262). -/
theorem ccOf16_shows (p : Word) : CCShows p.toInt (ccOf16 p) := by
  unfold ccOf16 CCShows
  by_cases h : p = 0#16
  · subst h; decide
  · have hn : p.toNat ≠ 0 := fun e => h (BitVec.eq_of_toNat_eq e)
    have hm : p.getLsbD 15 = decide (32768 ≤ p.toNat) := (BitVec.msb_eq_getLsbD_last p).symm.trans (BitVec.msb_eq_decide p)
    have hl := p.isLt
    rw [if_neg h, hm, BitVec.toInt_eq_toNat_cond]
    by_cases g : 32768 ≤ p.toNat
    · rw [if_neg (by omega), if_pos (decide_eq_true g)]
      refine ⟨fun e => ?_, fun _ => rfl, fun e => ?_⟩ <;> (exfalso; omega)
    · rw [if_pos (by omega), if_neg (by simpa using g)]
      refine ⟨fun e => ?_, fun e => ?_, fun _ => rfl⟩ <;> (exfalso; omega)

/-- Compare sets CC by the sign of the exact difference (R143). -/
theorem compareCC_shows (com : Bool) (p q : Byte) :
    CCShows (if com then (p.toNat : Int) - q.toNat else p.toInt - q.toInt) (compareCC com p q) := by
  unfold compareCC CCShows
  cases com
  · simp only [Bool.false_eq_true, if_false]
    by_cases h : p.toInt > q.toInt
    · rw [if_pos h]
      refine ⟨fun e => ?_, fun e => ?_, fun _ => rfl⟩ <;> (exfalso; omega)
    · rw [if_neg h]
      by_cases g : p.toInt = q.toInt
      · rw [if_pos g]
        refine ⟨fun _ => rfl, fun e => ?_, fun e => ?_⟩ <;> (exfalso; omega)
      · rw [if_neg g]
        refine ⟨fun e => ?_, fun _ => rfl, fun e => ?_⟩ <;> (exfalso; omega)
  · simp only [if_true]
    by_cases h : (p.toNat : Int) > q.toNat
    · rw [if_pos h]
      refine ⟨fun e => ?_, fun e => ?_, fun _ => rfl⟩ <;> (exfalso; omega)
    · rw [if_neg h]
      by_cases g : (p.toNat : Int) = q.toNat
      · rw [if_pos g]
        refine ⟨fun _ => rfl, fun e => ?_, fun e => ?_⟩ <;> (exfalso; omega)
      · rw [if_neg g]
        refine ⟨fun e => ?_, fun _ => rfl, fun e => ?_⟩ <;> (exfalso; omega)

theorem compareCC_ne (com : Bool) (p q : Byte) : compareCC com p q ≠ 3#2 := by
  unfold compareCC
  cases com <;> simp only [Bool.false_eq_true, if_false, if_true] <;> split_ifs <;> decide

/-- A test under mask by bits (R239, R240, R242). -/
theorem testCC_spec (v m : Byte) :
    (testCC v m = 0#2 ∧ ∀ k, k < 8 → m.getLsbD k = true → v.getLsbD k = true) ∨
      (testCC v m = 2#2 ∧ ∃ k, k < 8 ∧ m.getLsbD k = true ∧ v.getLsbD k = false) := by
  have e : v &&& m = m ↔ ∀ k, k < 8 → m.getLsbD k = true → v.getLsbD k = true := by
    refine ⟨fun h k hk hm => ?_, fun h => BitVec.eq_of_getLsbD_eq fun k hk => ?_⟩
    · rw [← h, BitVec.getLsbD_and, Bool.and_eq_true] at hm
      exact hm.1
    · rw [BitVec.getLsbD_and]
      cases hm : m.getLsbD k
      · exact Bool.and_false _
      · rw [h k hk hm, Bool.and_self]
  unfold testCC
  by_cases h : v &&& m = m
  · exact .inl ⟨if_pos h, e.mp h⟩
  · refine .inr ⟨if_neg h, ?_⟩
    have g := fun a => h (e.mpr a)
    simpa using g

theorem testCC_ne (v m : Byte) : testCC v m ≠ 3#2 := by
  unfold testCC
  split <;> decide

/-! ## Writing a result -/

/-- Writing a result and setting CC from it (R40). -/
theorem State.loadReg_loads (s : State) (r : Reg) (v : Byte) : Loads r v s (s.loadReg r v) := by
  refine ⟨?_, ?_, ?_⟩
  · refine (State.setCC_reg (s.setReg r v) (ccOf v) r).trans ?_
    rw [State.reg_setReg, if_pos rfl]
  · rw [show (s.loadReg r v).cc = ccOf v from State.setCC_cc (s.setReg r v) (ccOf v)]
    exact ccOf_shows v
  · refine ((s.setReg_frame r v).trans ((s.setReg r v).setCC_frame (ccOf v))).mono ?_
    simp [MayChange.within, MayChange.and]

/-- A register other than the one written. -/
theorem State.loadReg_reg_of_ne (s : State) (r q : Reg) (v : Byte) (h : q ≠ r) : (s.loadReg r v).reg q = s.reg q := by
  refine (State.setCC_reg (s.setReg r v) (ccOf v) q).trans ?_
  rw [State.reg_setReg, if_neg h]

/-- Writing the result of an addition or subtraction (R141, R142): the register, the three flags, CC. -/
theorem State.arithReg_spec (s : State) (r : Reg) (x : AluResult) :
    (s.arithReg r x).reg r = x.value ∧ (s.arithReg r x).carry = x.c ∧ (s.arithReg r x).idc = x.idc ∧
      (s.arithReg r x).ovf = x.ovf ∧ CCShows x.value.toInt (s.arithReg r x).cc ∧
      Frame { regs := [physOf s.rs r], psl := arithBits } s (s.arithReg r x) := by
  have hf := (s.setReg r x.value).setArith_flags x
  refine ⟨?_, ?_, ?_, ?_, ?_, ?_⟩
  · refine (State.setCC_reg _ (ccOf x.value) r).trans ?_
    unfold State.setArith
    rw [State.setOvf_reg, State.setIdc_reg, State.setCarry_reg, State.reg_setReg, if_pos rfl]
  · exact (State.setCC_carry _ _).trans hf.1
  · exact (State.setCC_idc _ _).trans hf.2.1
  · exact (State.setCC_ovf _ _).trans hf.2.2.1
  · rw [show (s.arithReg r x).cc = ccOf x.value from State.setCC_cc _ _]
    exact ccOf_shows _
  · refine (((((s.setReg_frame r x.value).trans (State.setCarry_frame _ x.c)).trans (State.setIdc_frame _ x.idc)).trans
      (State.setOvf_frame _ x.ovf)).trans (State.setCC_frame _ (ccOf x.value))).mono ?_
    simp [MayChange.within, MayChange.and, arithBits, ccBits]

/-- A register other than the one written. -/
theorem State.arithReg_reg_of_ne (s : State) (r q : Reg) (x : AluResult) (h : q ≠ r) :
    (s.arithReg r x).reg q = s.reg q := by
  refine (State.setCC_reg _ (ccOf x.value) q).trans ?_
  unfold State.setArith
  rw [State.setOvf_reg, State.setIdc_reg, State.setCarry_reg, State.reg_setReg, if_neg h]

/-- Bit 7 of a byte says whether it is negative. -/
theorem toInt_of_bit7 (b : Byte) : b.toInt = if b.getLsbD 7 then (b.toNat : Int) - 256 else b.toNat := by
  revert b; decide

theorem not_toInt (b : Byte) : (~~~b).toInt = -b.toInt - 1 := by
  revert b; decide

theorem bit7_eq (b : Byte) : b.getLsbD 7 = decide (128 ≤ b.toNat) := by
  revert b; decide

/-- The value and the flags of an addition are those of the exact sum (R141). -/
theorem addCarry_sums (a b : Byte) (cin : Bool) (t : State) (hc : t.carry = (addCarry a b cin).c)
    (hi : t.idc = (addCarry a b cin).idc) (ho : t.ovf = (addCarry a b cin).ovf) :
    Sums a b cin.toNat (addCarry a b cin).value t := by
  have ha := a.isLt
  have hb := b.isLt
  have hk : cin.toNat ≤ 1 := by cases cin <;> decide
  have hv : (BitVec.ofNat 8 (a.toNat + b.toNat + cin.toNat)).toNat = (a.toNat + b.toNat + cin.toNat) % 256 :=
    BitVec.toNat_ofNat _ _
  refine ⟨hv, ?_, ?_, ?_⟩
  · rw [hc]
    simp only [addCarry, Nat.testBit_eq_decide_div_mod_eq, decide_eq_true_eq]
    omega
  · rw [hi]
    simp only [addCarry, decide_eq_true_eq]
    omega
  · rw [ho]
    simp only [addCarry, decide_eq_true_eq, toInt_of_bit7, bit7_eq, hv]
    by_cases h1 : 128 ≤ a.toNat <;> by_cases h2 : 128 ≤ b.toNat <;> simp only [h1, h2, decide_true, decide_false,
      if_true, Bool.false_eq_true, if_false, true_and, false_and, ne_eq, Bool.true_eq_false, false_iff,
      decide_eq_true_eq, decide_eq_false_iff_not] <;> omega

/-- The value and the flags of a subtraction are those of the exact difference (R142): the complement of `b` and one or
the carry are added, and the borrow is the inverse of what is added. -/
theorem addCarry_subtracts (a b : Byte) (cin : Bool) (t : State) (hc : t.carry = (addCarry a (~~~b) cin).c)
    (hi : t.idc = (addCarry a (~~~b) cin).idc) (ho : t.ovf = (addCarry a (~~~b) cin).ovf) :
    Subtracts a b (1 - cin.toNat) (addCarry a (~~~b) cin).value t := by
  obtain ⟨h1, h2, h3, h4⟩ := addCarry_sums a (~~~b) cin t hc hi ho
  have ha := a.isLt
  have hb := b.isLt
  have hk : cin.toNat ≤ 1 := by cases cin <;> decide
  have hn : (~~~b).toNat = 255 - b.toNat := by rw [BitVec.toNat_not]
  have hs : (~~~b).toInt = -b.toInt - 1 := not_toInt b
  refine ⟨?_, ?_, ?_, ?_⟩
  · rw [h1, hn]; omega
  · rw [h2, hn]; omega
  · rw [h3, hn]; omega
  · rw [h4, hs]; omega

theorem State.carryIn_eq (s : State) : carryIn s = (s.wc && s.carry).toNat := by
  unfold carryIn
  cases s.wc <;> rfl

theorem State.borrowIn_eq (s : State) : borrowIn s = 1 - (if s.wc then s.carry else true).toNat := by
  unfold borrowIn
  cases s.wc <;> rfl

/-! ## Indexing -/

/-- The index register's adjustment (R114, R119). -/
theorem State.adjustIndex_spec (s : State) (r : Reg) (ic : IndexControl) :
    Frame { regs := [physOf s.rs r] } s (s.adjustIndex r ic) := by
  cases ic
  · exact Frame.refl _ s
  · exact s.setReg_frame r _
  · exact s.setReg_frame r _
  · exact Frame.refl _ s

theorem State.adjustIndex_psl (s : State) (r : Reg) (ic : IndexControl) : (s.adjustIndex r ic).psl = s.psl := by
  cases ic
  · rfl
  · exact State.setPhys_psl s _ _
  · exact State.setPhys_psl s _ _
  · rfl

theorem State.adjustIndex_rs (s : State) (r : Reg) (ic : IndexControl) : (s.adjustIndex r ic).rs = s.rs := by
  unfold State.rs
  rw [s.adjustIndex_psl]

/-- A write of the data register in the adjusted state, as a change of the state before (R114). -/
theorem State.loadReg_loadsAbs (s : State) (r : Reg) (op : AbsOperand) (v : Byte) :
    LoadsAbs r op v s ((s.adjustIndex r op.ic).loadReg (dataReg r op.ic) v) := by
  obtain ⟨h1, h2, h3⟩ := (s.adjustIndex r op.ic).loadReg_loads (dataReg r op.ic) v
  refine ⟨h1, h2, fun h => State.loadReg_reg_of_ne _ _ _ _ h.symm, ?_⟩
  rw [s.adjustIndex_rs] at h3
  refine ((s.adjustIndex_spec r op.ic).trans h3).mono ?_
  simp [MayChange.within, MayChange.and]

/-- The record of transactions and a write of a register do not touch one another. -/
theorem State.record_setReg (s : State) (r : Reg) (v : Byte) (ts : List Transaction) :
    (s.setReg r v).record ts = (s.record ts).setReg r v := by
  unfold State.setReg
  rw [State.record_rs]
  cases physOf s.rs r <;> rfl

/-- Nor do the record and the index register's adjustment. -/
theorem State.record_adjustIndex (s : State) (r : Reg) (ic : IndexControl) (ts : List Transaction) :
    (s.adjustIndex r ic).record ts = (s.record ts).adjustIndex r ic := by
  cases ic
  · rfl
  · exact (s.record_setReg r _ ts).trans (by rw [← s.record_reg ts r]; rfl)
  · exact (s.record_setReg r _ ts).trans (by rw [← s.record_reg ts r]; rfl)
  · rfl

/-! ## The reads an instruction makes (R76, R112 to R118) -/

/-- The reads of one byte: at most one transaction, and it is a read at a device. -/
theorem State.memReads_bound (s : State) (k : MemAccess) (a : Word) :
    (s.memReads k a).length ≤ 1 ∧ ∀ tr ∈ s.memReads k a, isDeviceRead tr = true := by
  obtain ⟨_, h⟩ | ⟨_, h⟩ := s.memReads_spec k a <;> rw [h] <;> simp [isDeviceRead]

/-- Two bounds on lists of reads, joined. -/
theorem deviceReads_append (m n : Nat) (xs ys : List Transaction)
    (hx : xs.length ≤ m ∧ ∀ tr ∈ xs, isDeviceRead tr = true) (hy : ys.length ≤ n ∧ ∀ tr ∈ ys, isDeviceRead tr = true) :
    (xs ++ ys).length ≤ m + n ∧ ∀ tr ∈ xs ++ ys, isDeviceRead tr = true := by
  refine ⟨by rw [List.length_append]; exact Nat.add_le_add hx.1 hy.1, fun tr h => ?_⟩
  exact (List.mem_append.mp h).elim (hx.2 tr) (hy.2 tr)

theorem State.ptr16Reads_bound (s : State) (kind : PtrKind) (a : Word) :
    (s.ptr16Reads kind a).length ≤ 2 ∧ ∀ tr ∈ s.ptr16Reads kind a, isDeviceRead tr = true :=
  deviceReads_append 1 1 _ _ (s.memReads_bound _ _) (s.memReads_bound _ _)

/-- The reads of an address: a pointer's two with the indirect bit, none without. -/
theorem State.followReads_bound (s : State) (ind : Bool) (a : Word) :
    (s.followReads ind a).length ≤ 2 ∧ ∀ tr ∈ s.followReads ind a, isDeviceRead tr = true := by
  cases ind
  · exact ⟨Nat.zero_le _, fun tr h => nomatch h⟩
  · exact s.ptr16Reads_bound _ _

theorem State.relByteReads_bound (s : State) (op : RelOperand) :
    (s.relByteReads op).length ≤ 3 ∧ ∀ tr ∈ s.relByteReads op, isDeviceRead tr = true :=
  deviceReads_append 2 1 _ _ (s.followReads_bound _ _) (s.memReads_bound _ _)

theorem State.absByteReads_bound (s : State) (r : Reg) (op : AbsOperand) :
    (s.absByteReads r op).length ≤ 3 ∧ ∀ tr ∈ s.absByteReads r op, isDeviceRead tr = true :=
  deviceReads_append 2 1 _ _ (s.followReads_bound _ _) (s.memReads_bound _ _)

/-! ## Stores -/

/-- A store changes no register. -/
theorem State.memWrite_reg (s : State) (a : Word) (v : Byte) (q : Reg) : (s.memWrite a v).reg q = s.reg q :=
  State.reg_congr s _ q (by unfold State.rs; rw [State.memWrite_psl]) fun p => State.memWrite_phys s a v p

/-- MemWrite as a store (R65). -/
theorem State.memWrite_stores (s : State) (a : Word) (v : Byte) : Stores a v [] s (s.memWrite a v) := by
  refine ⟨fun h => ?_, fun h => ?_, fun h => ?_, s.memWrite_frame a v⟩
  · unfold State.memWrite
    rw [h]
    exact ⟨by simp [State.byteAt, Memory.get?_put_self], rfl⟩
  · unfold State.memWrite
    obtain h | h := h <;> rw [h] <;> exact ⟨rfl, rfl⟩
  · unfold State.memWrite
    rw [h]
    exact ⟨rfl, rfl⟩

/-! ## The internal stack (R28) -/

/-- Push16: the entry at SP holds the value, SP is one higher modulo 16. -/
theorem State.push16_spec (s : State) (v : Word) :
    (s.push16 v).stackAt s.sp = v ∧ (s.push16 v).sp = s.sp + 1#4 ∧
      Frame { stack := [s.sp], psu := spBits } s (s.push16 v) := by
  refine ⟨?_, State.setSp_sp _ _, ?_⟩
  · refine (State.setStack_stackAt s s.sp s.sp v).trans (if_pos rfl)
  · refine ((s.setStack_frame s.sp v).trans (State.setSp_frame _ _)).mono ?_
    simp [MayChange.within, MayChange.and]

/-- What Pop16 leaves: SP one lower modulo 16. -/
theorem State.dropTop_spec (s : State) : s.dropTop.sp = s.sp - 1#4 ∧ Frame { psu := spBits } s s.dropTop :=
  ⟨State.setSp_sp _ _, s.setSp_frame _⟩

/-- What was pushed is on top, and popping brings SP back. -/
theorem State.push16_pop (s : State) (v : Word) :
    (s.push16 v).topOfStack = v ∧ (s.push16 v).dropTop.sp = s.sp := by
  obtain ⟨h1, h2, _⟩ := s.push16_spec v
  have h3 : s.sp + 1#4 - 1#4 = s.sp := BitVec.add_sub_cancel _ _
  refine ⟨?_, ?_⟩
  · unfold State.topOfStack
    rw [h2, h3, h1]
  · refine (State.setSp_sp _ _).trans ?_
    rw [h2, h3]

/-! ## Branches (R180) -/

/-- A branch without link. -/
theorem State.branchIf_branches (s : State) (c : Bool) (a : Word) (reads : List Transaction) (P : Prop)
    (h : c = true ↔ P) : Branches P false a reads s (s.branchIf c a reads) := by
  refine ⟨fun p => ?_, fun p => ?_⟩
  · rw [State.branchIf, if_pos (h.mpr p)]
    exact ⟨rfl, fun e => Bool.noConfusion e, (s.record reads).setIp_frame a⟩
  · rw [State.branchIf, if_neg fun e => p (h.mp e)]

/-- A branch with link. -/
theorem State.callIf_branches (s : State) (c : Bool) (a : Word) (reads : List Transaction) (P : Prop)
    (h : c = true ↔ P) : Branches P true a reads s (s.callIf c a reads) := by
  obtain ⟨h1, h2, h3⟩ := (s.record reads).push16_spec s.ip
  refine ⟨fun p => ?_, fun p => ?_⟩
  · rw [State.callIf, if_pos (h.mpr p)]
    refine ⟨rfl, fun _ => ⟨h1, h2⟩, (h3.trans (State.setIp_frame _ a)).mono ?_⟩
    simp [MayChange.within, MayChange.and]
  · rw [State.callIf, if_neg fun e => p (h.mp e)]

theorem Cond.bits_inj (m n : Cond) : m.bits = n.bits ↔ m = n := by
  cases m <;> cases n <;> decide

/-- CondTrue (R127). -/
theorem State.condTrue_iff (s : State) (m : Cond) : s.condTrue m = true ↔ Holds m s := by
  simp [State.condTrue, Holds]

/-- CondFalse (R127). -/
theorem State.condFalse_iff (s : State) (m : Cond) : s.condFalse m = true ↔ s.cc ≠ m.bits := by
  simp [State.condFalse]

/-- A return (R197, R198). -/
theorem State.returnFrom_spec (s : State) (clearII : Bool) :
    (s.returnFrom clearII).ip = s.stackAt (s.sp - 1#4) ∧ (s.returnFrom clearII).sp = s.sp - 1#4 ∧
      (clearII = true → (s.returnFrom clearII).ii = false) ∧ (clearII = false → (s.returnFrom clearII).ii = s.ii) ∧
      Frame { ip := true, psu := if clearII then 5 :: spBits else spBits } s (s.returnFrom clearII) := by
  obtain ⟨h1, h2⟩ := s.dropTop_spec
  cases clearII
  · refine ⟨rfl, h1, fun e => Bool.noConfusion e, fun _ => State.setSp_ii s _, ?_⟩
    exact (h2.trans (State.setIp_frame _ _)).mono (by simp [MayChange.within, MayChange.and])
  · refine ⟨rfl, (State.setII_sp _ false).trans h1, fun _ => State.setII_ii _ false, fun e => Bool.noConfusion e, ?_⟩
    refine ((h2.trans (State.setIp_frame _ s.topOfStack)).trans (State.setII_frame _ false)).mono ?_
    simp [MayChange.within, MayChange.and, spBits]

/-! ## Interrupts (R305 to R307) -/

theorem irqTie_inj (x y : IrqSource) (h : irqTie x = irqTie y) : x = y := by
  cases x <;> cases y <;> simp_all [irqTie]

/-- The order of service in numbers. -/
theorem servedBefore_iff (x y : IrqSource) :
    servedBefore x y = true ↔ irqRankOf x < irqRankOf y ∨ (irqRankOf x = irqRankOf y ∧ irqTie x < irqTie y) := by
  simp [servedBefore]

/-- The order is transitive. -/
theorem servedBefore_trans {x y z : IrqSource} (h : servedBefore x y = true) (g : servedBefore y z = true) :
    servedBefore x z = true := by
  rw [servedBefore_iff] at *
  omega

/-- The order is total. -/
theorem servedBefore_or {x y : IrqSource} (h : x ≠ y) : servedBefore x y = true ∨ servedBefore y x = true := by
  have hn : irqTie x ≠ irqTie y := fun e => h (irqTie_inj x y e)
  rw [servedBefore_iff, servedBefore_iff]
  omega

/-- The source served first is one of those given, and it is served before every other of them. -/
theorem firstServed_spec (best : IrqSource) (rest : List IrqSource) :
    firstServed best rest ∈ best :: rest ∧
      ∀ x ∈ best :: rest, x ≠ firstServed best rest → servedBefore (firstServed best rest) x = true := by
  induction rest generalizing best with
  | nil => exact ⟨List.mem_cons_self, fun x hx hn => absurd (List.mem_singleton.mp hx) hn⟩
  | cons y ys ih =>
    -- `c` below is the earlier of `best` and `y`.
    have hc : ∀ x, x = best ∨ x = y → x = (if servedBefore y best then y else best) ∨
        servedBefore (if servedBefore y best then y else best) x = true := by
      rintro x (rfl | rfl)
      · by_cases b : servedBefore y x = true
        · exact .inr (by rw [if_pos b]; exact b)
        · exact .inl (by rw [if_neg b])
      · by_cases b : servedBefore x best = true
        · exact .inl (by rw [if_pos b])
        · rw [if_neg b]
          by_cases e : x = best
          · exact .inl e
          · exact .inr ((servedBefore_or e).resolve_left b)
    have hm : (if servedBefore y best then y else best) = best ∨ (if servedBefore y best then y else best) = y := by
      split
      · exact .inr rfl
      · exact .inl rfl
    unfold firstServed
    generalize (if servedBefore y best then y else best) = c at hc hm ⊢
    obtain ⟨h1, h2⟩ := ih c
    refine ⟨?_, fun x hx hn => ?_⟩
    · rcases List.mem_cons.mp h1 with h | h
      · rw [h]
        rcases hm with e | e <;> rw [e] <;> simp
      · exact List.mem_cons_of_mem _ (List.mem_cons_of_mem _ h)
    · have close : x = best ∨ x = y → servedBefore (firstServed c ys) x = true := fun hxy => by
        rcases hc x hxy with e | b
        · exact h2 x (e ▸ List.mem_cons_self) hn
        · by_cases hf : c = firstServed c ys
          · rw [← hf]; exact b
          · exact servedBefore_trans (h2 c List.mem_cons_self hf) b
      rcases List.mem_cons.mp hx with h | h
      · exact close (.inl h)
      · rcases List.mem_cons.mp h with h | h
        · exact close (.inr h)
        · exact h2 x (List.mem_cons_of_mem _ h) hn

theorem State.mem_requests (s : State) (src : IrqSource) :
    src ∈ s.requests ↔ (src = .trap ∧ s.trapp = true) ∨ ∃ n ∈ s.irqPending, src = .platform n := by
  unfold State.requests
  cases s.trapp <;> simp [eq_comm]

/-- When an interrupt is due, and which (R305, R307). -/
theorem State.interruptDue_some (s : State) (src : IrqSource) (h : s.interruptDue = some src) :
    s.ii = false ∧ src ∈ s.requests ∧ ∀ x ∈ s.requests, x ≠ src → servedBefore src x = true := by
  unfold State.interruptDue at h
  cases hi : s.ii
  · rw [hi, if_neg (by decide)] at h
    cases hr : s.requests with
    | nil => rw [hr] at h; exact nomatch h
    | cons y ys =>
      rw [hr] at h
      obtain rfl : firstServed y ys = src := Option.some.inj h
      exact ⟨rfl, firstServed_spec y ys⟩
  · rw [hi] at h; exact nomatch h

theorem State.interruptDue_none (s : State) : s.interruptDue = none ↔ s.ii = true ∨ s.requests = [] := by
  unfold State.interruptDue
  cases s.ii
  · cases s.requests <;> simp
  · simp

/-- Taking an interrupt (R306). -/
theorem State.enterInterrupt_spec (s : State) (src : IrqSource) :
    (s.enterInterrupt src).stackAt s.sp = s.ip ∧ (s.enterInterrupt src).sp = s.sp + 1#4 ∧
      (s.enterInterrupt src).ii = true ∧ (s.enterInterrupt src).halted = false ∧
      (s.enterInterrupt src).ip = s.irqTarget src ∧ (s.enterInterrupt src).trace = s.trace ++ s.vectorReads src ∧
      Frame { stack := [s.sp], psu := 5 :: spBits, ip := true, halted := true } (s.record (s.vectorReads src))
        (s.enterInterrupt src) := by
  obtain ⟨h1, h2, h3⟩ := (s.record (s.vectorReads src)).push16_spec s.ip
  refine ⟨h1, (State.setII_sp _ true).trans h2, State.setII_ii _ true, rfl, rfl, rfl, ?_⟩
  obtain ⟨k1, k2, k3, k4, k5, k6, k7, k8, k9, k10, k11, k12, k13⟩ :=
    (h3.trans (State.setII_frame _ true)).mono
      (d := { stack := [s.sp], psu := 5 :: spBits, ip := true, halted := true })
      (by simp [MayChange.within, MayChange.and, spBits])
  exact ⟨k1, k2, k3, k4, fun e => Bool.noConfusion e, k6, k7, fun e => Bool.noConfusion e, k9, k10, k11, k12, k13⟩

end Sys2Proof.Machine
end

