-- ==== Sys2Proof/Laws/Address.lean ====
section
/-! SUPPORT. The arithmetic under the addresses: pages, halves, displacements, pointers (R24, R25, R112 to R118). -/

namespace Sys2Proof.Machine

/-- PAGE : offset as a number (R24). -/
theorem page_append_toNat (p : BitVec 3) (o : BitVec 13) : (p ++ o : Word).toNat = p.toNat * 8192 + o.toNat := by
  rw [BitVec.toNat_append, ← Nat.shiftLeft_add_eq_or_of_lt o.isLt, Nat.shiftLeft_eq]

/-- The top bit and a 15-bit address as a number (R115). -/
theorem half_append_toNat (p : BitVec 1) (o : BitVec 15) : (p ++ o : Word).toNat = p.toNat * 32768 + o.toNat := by
  rw [BitVec.toNat_append, ← Nat.shiftLeft_add_eq_or_of_lt o.isLt, Nat.shiftLeft_eq]

/-- Two bytes as a number, the high one first (R62). -/
theorem byte_append_toNat (hi lo : Byte) : (hi ++ lo : Word).toNat = hi.toNat * 256 + lo.toNat := by
  rw [BitVec.toNat_append, ← Nat.shiftLeft_add_eq_or_of_lt lo.isLt, Nat.shiftLeft_eq]

theorem page_toNat (a : Word) : (a.extractLsb' 13 3).toNat = a.toNat / 8192 := by
  have := a.isLt
  rw [BitVec.extractLsb'_toNat, Nat.shiftRight_eq_div_pow]
  omega

theorem offset_toNat (a : Word) : (a.extractLsb' 0 13).toNat = a.toNat % 8192 := by
  rw [BitVec.extractLsb'_toNat, Nat.shiftRight_zero]

theorem half_toNat (a : Word) : (a.extractLsb' 15 1).toNat = a.toNat / 32768 := by
  have := a.isLt
  rw [BitVec.extractLsb'_toNat, Nat.shiftRight_eq_div_pow]
  omega

/-- The next address inside the page (R25). -/
theorem nextInPage_toNat (a : Word) : (nextInPage a).toNat = a.toNat / 8192 * 8192 + (a.toNat % 8192 + 1) % 8192 := by
  unfold nextInPage
  rw [page_append_toNat, page_toNat, BitVec.toNat_add, offset_toNat]
  rfl

theorem nextInPage_page (a : Word) : (nextInPage a).extractLsb' 13 3 = a.extractLsb' 13 3 := append_extractHigh _ _

/-- The two bytes of a pointer are at two addresses (R118). -/
theorem pointerSecond_ne (kind : PtrKind) (a : Word) : pointerSecond kind a ≠ a := by
  intro h
  have e := congrArg BitVec.toNat h
  have := a.isLt
  cases kind
  · rw [show pointerSecond .page a = nextInPage a from rfl, nextInPage_toNat] at e
    omega
  · rw [show pointerSecond .flat a = a + 1#16 from rfl, BitVec.toNat_add, show (1#16 : Word).toNat = 1 from rfl] at e
    omega

/-- A displacement, sign-extended to the width of the offset (R112). -/
theorem disp_toNat (d : BitVec 7) : ((d.signExtend 13).toNat : Int) = d.toInt % 8192 := by
  have h : (d.signExtend 13).toInt = d.toInt := BitVec.toInt_signExtend_of_le (by decide)
  rw [BitVec.toInt_eq_toNat_cond] at h
  have := (d.signExtend 13).isLt
  split at h <;> omega

/-- The index added to an absolute address (R114). -/
theorem State.index_toNat (s : State) (r : Reg) (ic : IndexControl) :
    (s.index r ic).toNat = if ic = .none then 0 else (s.reg r).toNat := by
  cases ic <;> rfl

/-- The branches without link leave the state, or move IP (R180). -/
theorem State.branchIf_cases (s : State) (c : Bool) (a : Word) (reads : List Transaction) :
    (c = true ∧ s.branchIf c a reads = (s.record reads).setIp a) ∨ (c = false ∧ s.branchIf c a reads = s) := by
  cases c
  · exact .inr ⟨rfl, rfl⟩
  · exact .inl ⟨rfl, rfl⟩

/-- The branches with link leave the state, or push the address of the next instruction and move IP (R180). -/
theorem State.callIf_cases (s : State) (c : Bool) (a : Word) (reads : List Transaction) :
    (c = true ∧ s.callIf c a reads = ((s.record reads).push16 s.ip).setIp a) ∨ (c = false ∧ s.callIf c a reads = s) := by
  cases c
  · exact .inr ⟨rfl, rfl⟩
  · exact .inl ⟨rfl, rfl⟩

/-- Every stack entry after a push (R28). -/
theorem State.push16_stackAt (s : State) (v : Word) (k : BitVec 4) :
    (s.push16 v).stackAt k = if k = s.sp then v else s.stackAt k := by
  by_cases h : k = s.sp
  · rw [if_pos h, h]
    exact (s.push16_spec v).1
  · rw [if_neg h]
    exact (s.push16_spec v).2.2.2.2.2.1 k (by simpa using h)

/-- A read of PSU: Sense in bit 7 (R31). -/
theorem State.psuRead_sense (s : State) : s.psuRead.getLsbD 7 = Config.senseLevel s.draws := by
  unfold State.psuRead
  generalize Config.senseLevel s.draws = b
  generalize s.psu = p
  rw [show (BitVec.ofBool b ++ p.extractLsb' 0 7 : BitVec 8).getLsbD 7 = _ from BitVec.getLsbD_append]
  simp

/-- A read of PSU: the stored bits (R31). -/
theorem State.psuRead_stored (s : State) (k : Nat) (h : k < 7) : s.psuRead.getLsbD k = s.psu.getLsbD k := by
  unfold State.psuRead
  generalize Config.senseLevel s.draws = b
  generalize s.psu = p
  rw [show (BitVec.ofBool b ++ p.extractLsb' 0 7 : BitVec 8).getLsbD k = _ from BitVec.getLsbD_append]
  simp [h]

/-- The two digits of `dar`'s result (R212). -/
theorem decimalAdjust_toNat (c idc : Bool) (v : Byte) :
    (decimalAdjust c idc v).toNat =
      (v.toNat / 16 + if c then 0 else 10) % 16 * 16 + (v.toNat % 16 + if idc then 0 else 10) % 16 := by
  revert v
  cases c <;> cases idc <;> decide

end Sys2Proof.Machine
end

