-- ==== Sys2Proof/Laws/Exec.lean ====
section
/-! SUPPORT. What each instruction may change, in one table, and the proof that it changes nothing else. -/

namespace Sys2Proof.Machine

/-- The frame of each instruction in the state it runs in. -/
def mayChange (i : Instr) (s : State) : MayChange :=
  match i with
  | .lodz _ => { regs := [.r0], psl := ccBits }
  | .lodi r _ => { regs := [physOf s.rs r], psl := ccBits }
  | .lodr r _ => { regs := [physOf s.rs r], psl := ccBits, trace := true }
  | .loda r op => { regs := [physOf s.rs (dataReg r op.ic), physOf s.rs r], psl := ccBits, trace := true }
  | .eorz _ => { regs := [.r0], psl := ccBits }
  | .eori r _ => { regs := [physOf s.rs r], psl := ccBits }
  | .eorr r _ => { regs := [physOf s.rs r], psl := ccBits, trace := true }
  | .eora r op => { regs := [physOf s.rs (dataReg r op.ic), physOf s.rs r], psl := ccBits, trace := true }
  | .andz _ => { regs := [.r0], psl := ccBits }
  | .andi r _ => { regs := [physOf s.rs r], psl := ccBits }
  | .andr r _ => { regs := [physOf s.rs r], psl := ccBits, trace := true }
  | .anda r op => { regs := [physOf s.rs (dataReg r op.ic), physOf s.rs r], psl := ccBits, trace := true }
  | .iorz _ => { regs := [.r0], psl := ccBits }
  | .iori r _ => { regs := [physOf s.rs r], psl := ccBits }
  | .iorr r _ => { regs := [physOf s.rs r], psl := ccBits, trace := true }
  | .iora r op => { regs := [physOf s.rs (dataReg r op.ic), physOf s.rs r], psl := ccBits, trace := true }
  | .addz _ => { regs := [.r0], psl := arithBits }
  | .addi r _ => { regs := [physOf s.rs r], psl := arithBits }
  | .addr r _ => { regs := [physOf s.rs r], psl := arithBits, trace := true }
  | .adda r op => { regs := [physOf s.rs (dataReg r op.ic), physOf s.rs r], psl := arithBits, trace := true }
  | .subz _ => { regs := [.r0], psl := arithBits }
  | .subi r _ => { regs := [physOf s.rs r], psl := arithBits }
  | .subr r _ => { regs := [physOf s.rs r], psl := arithBits, trace := true }
  | .suba r op => { regs := [physOf s.rs (dataReg r op.ic), physOf s.rs r], psl := arithBits, trace := true }
  | .strz r => { regs := [physOf s.rs r], psl := ccBits }
  | .strr _ op => { mem := [s.relAddress op], trace := true }
  | .stra r op => { regs := [physOf s.rs r], mem := [(s.adjustIndex r op.ic).absAddress r op], trace := true }
  | .comz _ => { psl := ccBits }
  | .comi _ _ => { psl := ccBits }
  | .comr _ _ => { psl := ccBits, trace := true }
  | .coma r _ => { regs := [physOf s.rs r], psl := ccBits, trace := true }
  | .bctr _ _ => { ip := true, trace := true }
  | .bcta _ _ => { ip := true, trace := true }
  | .bstr _ _ => { ip := true, stack := [s.sp], psu := spBits, trace := true }
  | .bsta _ _ => { ip := true, stack := [s.sp], psu := spBits, trace := true }
  | .brnr _ _ => { ip := true, trace := true }
  | .brna _ _ => { ip := true, trace := true }
  | .bsnr _ _ => { ip := true, stack := [s.sp], psu := spBits, trace := true }
  | .bsna _ _ => { ip := true, stack := [s.sp], psu := spBits, trace := true }
  | .bcfr _ _ => { ip := true, trace := true }
  | .bcfa _ _ => { ip := true, trace := true }
  | .bsfr _ _ => { ip := true, stack := [s.sp], psu := spBits, trace := true }
  | .bsfa _ _ => { ip := true, stack := [s.sp], psu := spBits, trace := true }
  | .birr r _ => { regs := [physOf s.rs r], ip := true, trace := true }
  | .bira r _ => { regs := [physOf s.rs r], ip := true, trace := true }
  | .bdrr r _ => { regs := [physOf s.rs r], ip := true, trace := true }
  | .bdra r _ => { regs := [physOf s.rs r], ip := true, trace := true }
  | .retc _ => { ip := true, psu := spBits }
  | .rete _ => { ip := true, psu := 5 :: spBits }
  | .rrr r => { regs := [physOf s.rs r], psl := if s.wc then [7, 6, 5, 0] else ccBits }
  | .rrl r => { regs := [physOf s.rs r], psl := if s.wc then [7, 6, 5, 0] else ccBits }
  | .dar r => { regs := [physOf s.rs r] }
  | .wrtc _ => { trace := true }
  | .wrtd _ => { trace := true }
  | .redc r => { regs := [physOf s.rs r], psl := ccBits, trace := true }
  | .redd r => { regs := [physOf s.rs r], psl := ccBits, trace := true }
  | .wrte _ _ => { trace := true }
  | .rede r _ => { regs := [physOf s.rs r], psl := ccBits, trace := true }
  | .spsu => { regs := [.r0], psl := ccBits }
  | .spsl => { regs := [.r0], psl := ccBits }
  | .lpsu => { psu := [7, 6, 5, 4, 3, 2, 1, 0] }
  | .lpsl => { psl := [7, 6, 5, 4, 3, 2, 1, 0] }
  | .halt => { halted := true }
  | .cpsu _ => { psu := [7, 6, 5, 4, 3, 2, 1, 0] }
  | .cpsl _ => { psl := [7, 6, 5, 4, 3, 2, 1, 0] }
  | .ppsu _ => { psu := [7, 6, 5, 4, 3, 2, 1, 0] }
  | .ppsl _ => { psl := [7, 6, 5, 4, 3, 2, 1, 0] }
  | .tpsu _ => { psl := ccBits }
  | .tpsl _ => { psl := ccBits }
  | .nop => {}
  | .tmi _ _ => { psl := ccBits }
  | .zbrr _ => { ip := true, trace := true }
  | .zbsr _ => { ip := true, stack := [s.sp], psu := spBits, trace := true }
  | .bxa _ => { ip := true, trace := true }
  | .bsxa _ => { ip := true, stack := [s.sp], psu := spBits, trace := true }
  | .push => { stack := [s.sp], psu := spBits }
  | .pop => { regs := [.r0, physOf s.rs .r1], psu := spBits }
  | .mul => { regs := [.r0, physOf s.rs .r1], psl := ccBits }
  | .xchg => { regs := [.r0, physOf s.rs .r1] }
  | .clr r => { regs := [physOf s.rs r] }
  | .trap => { trapp := true }
  | .clrt => { trapp := true }
  | .cpl r => { regs := [physOf s.rs r] }
  | .pshs => { stack := [s.sp], psu := spBits }
  | .pops => { psl := [7, 6, 5, 4, 3, 2, 1, 0], psu := [7, 6, 5, 4, 3, 2, 1, 0] }
  | .svb => { ivb := true }
  | .chrp => {}
  | .lodf r _ => { regs := [physOf s.rs r], psl := ccBits, trace := true }
  | .ldfi r _ => { regs := [physOf s.rs r], psl := ccBits, trace := true }
  | .strf _ a => { mem := [a], trace := true }
  | .stfi r a => { mem := [s.farIAddress farIMode r a], trace := true }
  | .bctf _ _ => { ip := true, trace := true }
  | .bstf _ _ => { ip := true, stack := [s.sp], psu := spBits, trace := true }
  | .brnf _ _ => { ip := true, trace := true }
  | .bsnf _ _ => { ip := true, stack := [s.sp], psu := spBits, trace := true }
  | .bcff _ _ => { ip := true, trace := true }
  | .bsff _ _ => { ip := true, stack := [s.sp], psu := spBits, trace := true }
  | .birf r _ => { regs := [physOf s.rs r], ip := true, trace := true }
  | .bdrf r _ => { regs := [physOf s.rs r], ip := true, trace := true }
  | .bxf _ => { ip := true, trace := true }
  | .bsxf _ => { ip := true, stack := [s.sp], psu := spBits, trace := true }
  | .extdPrefix => {}
  | .reserved => {}
  | .reservedExtended _ => {}

theorem State.branchIf_frame (s : State) (c : Bool) (a : Word) (reads : List Transaction) :
    Frame { ip := true, trace := true } s (s.branchIf c a reads) := by
  unfold State.branchIf
  split
  · exact ((s.record_frame reads).trans (State.setIp_frame _ a)).mono (by simp [MayChange.within, MayChange.and])
  · exact Frame.refl _ s

theorem State.callIf_frame (s : State) (c : Bool) (a : Word) (reads : List Transaction) :
    Frame { ip := true, stack := [s.sp], psu := spBits, trace := true } s (s.callIf c a reads) := by
  unfold State.callIf
  split
  · exact (((s.record_frame reads).trans ((s.record reads).push16_spec s.ip).2.2).trans (State.setIp_frame _ a)).mono
      (by simp [MayChange.within, MayChange.and])
  · exact Frame.refl _ s

/-- ROT_OVF is unchanged: a rotate leaves OVF, and adds nothing to what it writes (C9, D25). -/
@[simp] theorem State.rotateOvf_rotOvf (s : State) : s.rotateOvf rotOvf = s := rfl

/-- A rotate's result (R210, R211). -/
theorem State.rotateReg_spec (s : State) (r : Reg) (v : Byte) (c idc : Bool) :
    (s.rotateReg r v c idc).reg r = v ∧ CCShows v.toInt (s.rotateReg r v c idc).cc ∧
      (s.wc = true → (s.rotateReg r v c idc).carry = c ∧ (s.rotateReg r v c idc).idc = idc) ∧
      Frame { regs := [physOf s.rs r], psl := if s.wc then [7, 6, 5, 0] else ccBits } s (s.rotateReg r v c idc) := by
  unfold State.rotateReg
  rw [State.rotateOvf_rotOvf]
  cases s.wc
  · obtain ⟨h1, h2, h3⟩ := s.loadReg_loads r v
    exact ⟨h1, h2, fun e => Bool.noConfusion e, h3⟩
  · refine ⟨?_, ?_, fun _ => ⟨?_, ?_⟩, ?_⟩
    · simp
    · simp only [if_true, State.setCCFor_eq, State.setCC_cc]
      exact ccOf_shows v
    · simp
    · simp
    · refine ((((s.setReg_frame r v).trans (State.setCarry_frame _ c)).trans (State.setIdc_frame _ idc)).trans
        (State.setCC_frame _ (ccOf v))).mono ?_
      simp [MayChange.within, MayChange.and, ccBits]

/-- R0 and `x[1]` written one after the other. -/
theorem State.setPair_spec (s : State) (lo hi : Byte) :
    ((s.setReg .r0 lo).setReg .r1 hi).reg .r1 = hi ∧ ((s.setReg .r0 lo).setReg .r1 hi).reg .r0 = lo ∧
      Frame { regs := [.r0, physOf s.rs .r1] } s ((s.setReg .r0 lo).setReg .r1 hi) := by
  refine ⟨by simp, by simp, ?_⟩
  have h := (s.setReg_frame .r0 lo).trans ((s.setReg .r0 lo).setReg_frame .r1 hi)
  rw [show (s.setReg .r0 lo).rs = s.rs from State.setPhys_rs s _ lo] at h
  exact h.mono (by simp [MayChange.within, MayChange.and])

/-- PSL replaced as a whole. -/
theorem State.setPsl_frame_all (s : State) (v : Byte) : Frame { psl := [7, 6, 5, 4, 3, 2, 1, 0] } s (s.setPsl v) :=
  s.setPsl_frame v _ fun k hk h => absurd h (by simp only [List.mem_cons, List.not_mem_nil]; omega)

theorem State.ivb_frame (s : State) (v : Word) : Frame { ivb := true } s { s with ivb := v } :=
  ⟨fun p _ => by cases p <;> rfl, fun _ _ _ => rfl, fun _ _ _ => rfl, fun _ _ => rfl, fun _ => rfl,
    fun h => Bool.noConfusion h, fun _ => rfl, fun _ => rfl, fun _ _ => rfl, fun _ => rfl, rfl, rfl, rfl⟩

theorem State.trapp_frame (s : State) (v : Bool) : Frame { trapp := true } s { s with trapp := v } :=
  ⟨fun p _ => by cases p <;> rfl, fun _ _ _ => rfl, fun _ _ _ => rfl, fun _ _ => rfl, fun _ => rfl, fun _ => rfl,
    fun h => Bool.noConfusion h, fun _ => rfl, fun _ _ => rfl, fun _ => rfl, rfl, rfl, rfl⟩

theorem State.halted_frame (s : State) (v : Bool) : Frame { halted := true } s { s with halted := v } :=
  ⟨fun p _ => by cases p <;> rfl, fun _ _ _ => rfl, fun _ _ _ => rfl, fun _ _ => rfl, fun _ => rfl, fun _ => rfl,
    fun _ => rfl, fun h => Bool.noConfusion h, fun _ _ => rfl, fun _ => rfl, rfl, rfl, rfl⟩

/-! ## The instructions, one by one -/

theorem frame_lodz (r : Reg) (s t : State) (h : exec (.lodz r) s = .next t) : Frame { regs := [.r0], psl := ccBits } s t := by
  obtain rfl := Host.Outcome.next.inj h
  exact (State.loadReg_loads _ .r0 _).2.2

theorem frame_lodi (r : Reg) (imm : Byte) (s t : State) (h : exec (.lodi r imm) s = .next t) : Frame { regs := [physOf s.rs r], psl := ccBits } s t := by
  obtain rfl := Host.Outcome.next.inj h
  exact (State.loadReg_loads _ _ _).2.2

theorem frame_lodr (r : Reg) (op : RelOperand) (s t : State) (h : exec (.lodr r op) s = .next t) : Frame { regs := [physOf s.rs r], psl := ccBits, trace := true } s t := by
  obtain rfl := Host.Outcome.next.inj h
  exact ((s.record_frame _).trans (State.loadReg_loads _ r _).2.2).mono (by simp [MayChange.within, MayChange.and])

theorem frame_loda (r : Reg) (op : AbsOperand) (s t : State) (h : exec (.loda r op) s = .next t) : Frame { regs := [physOf s.rs (dataReg r op.ic), physOf s.rs r], psl := ccBits, trace := true } s t := by
  obtain rfl := Host.Outcome.next.inj h
  rw [State.record_adjustIndex]
  exact ((s.record_frame _).trans ((s.record _).loadReg_loadsAbs r op _).2.2.2).mono (by simp [MayChange.within, MayChange.and])

theorem frame_eorz (r : Reg) (s t : State) (h : exec (.eorz r) s = .next t) : Frame { regs := [.r0], psl := ccBits } s t := by
  obtain rfl := Host.Outcome.next.inj h
  exact (State.loadReg_loads _ .r0 _).2.2

theorem frame_eori (r : Reg) (imm : Byte) (s t : State) (h : exec (.eori r imm) s = .next t) : Frame { regs := [physOf s.rs r], psl := ccBits } s t := by
  obtain rfl := Host.Outcome.next.inj h
  exact (State.loadReg_loads _ _ _).2.2

theorem frame_eorr (r : Reg) (op : RelOperand) (s t : State) (h : exec (.eorr r op) s = .next t) : Frame { regs := [physOf s.rs r], psl := ccBits, trace := true } s t := by
  obtain rfl := Host.Outcome.next.inj h
  exact ((s.record_frame _).trans (State.loadReg_loads _ r _).2.2).mono (by simp [MayChange.within, MayChange.and])

theorem frame_eora (r : Reg) (op : AbsOperand) (s t : State) (h : exec (.eora r op) s = .next t) : Frame { regs := [physOf s.rs (dataReg r op.ic), physOf s.rs r], psl := ccBits, trace := true } s t := by
  obtain rfl := Host.Outcome.next.inj h
  rw [State.record_adjustIndex]
  exact ((s.record_frame _).trans ((s.record _).loadReg_loadsAbs r op _).2.2.2).mono (by simp [MayChange.within, MayChange.and])

theorem frame_andz (r : Reg) (s t : State) (h : exec (.andz r) s = .next t) : Frame { regs := [.r0], psl := ccBits } s t := by
  obtain rfl := Host.Outcome.next.inj h
  exact (State.loadReg_loads _ .r0 _).2.2

theorem frame_andi (r : Reg) (imm : Byte) (s t : State) (h : exec (.andi r imm) s = .next t) : Frame { regs := [physOf s.rs r], psl := ccBits } s t := by
  obtain rfl := Host.Outcome.next.inj h
  exact (State.loadReg_loads _ _ _).2.2

theorem frame_andr (r : Reg) (op : RelOperand) (s t : State) (h : exec (.andr r op) s = .next t) : Frame { regs := [physOf s.rs r], psl := ccBits, trace := true } s t := by
  obtain rfl := Host.Outcome.next.inj h
  exact ((s.record_frame _).trans (State.loadReg_loads _ r _).2.2).mono (by simp [MayChange.within, MayChange.and])

theorem frame_anda (r : Reg) (op : AbsOperand) (s t : State) (h : exec (.anda r op) s = .next t) : Frame { regs := [physOf s.rs (dataReg r op.ic), physOf s.rs r], psl := ccBits, trace := true } s t := by
  obtain rfl := Host.Outcome.next.inj h
  rw [State.record_adjustIndex]
  exact ((s.record_frame _).trans ((s.record _).loadReg_loadsAbs r op _).2.2.2).mono (by simp [MayChange.within, MayChange.and])

theorem frame_iorz (r : Reg) (s t : State) (h : exec (.iorz r) s = .next t) : Frame { regs := [.r0], psl := ccBits } s t := by
  obtain rfl := Host.Outcome.next.inj h
  exact (State.loadReg_loads _ .r0 _).2.2

theorem frame_iori (r : Reg) (imm : Byte) (s t : State) (h : exec (.iori r imm) s = .next t) : Frame { regs := [physOf s.rs r], psl := ccBits } s t := by
  obtain rfl := Host.Outcome.next.inj h
  exact (State.loadReg_loads _ _ _).2.2

theorem frame_iorr (r : Reg) (op : RelOperand) (s t : State) (h : exec (.iorr r op) s = .next t) : Frame { regs := [physOf s.rs r], psl := ccBits, trace := true } s t := by
  obtain rfl := Host.Outcome.next.inj h
  exact ((s.record_frame _).trans (State.loadReg_loads _ r _).2.2).mono (by simp [MayChange.within, MayChange.and])

theorem frame_iora (r : Reg) (op : AbsOperand) (s t : State) (h : exec (.iora r op) s = .next t) : Frame { regs := [physOf s.rs (dataReg r op.ic), physOf s.rs r], psl := ccBits, trace := true } s t := by
  obtain rfl := Host.Outcome.next.inj h
  rw [State.record_adjustIndex]
  exact ((s.record_frame _).trans ((s.record _).loadReg_loadsAbs r op _).2.2.2).mono (by simp [MayChange.within, MayChange.and])

theorem frame_addz (r : Reg) (s t : State) (h : exec (.addz r) s = .next t) : Frame { regs := [.r0], psl := arithBits } s t := by
  obtain rfl := Host.Outcome.next.inj h
  exact (State.arithReg_spec _ .r0 _).2.2.2.2.2

theorem frame_addi (r : Reg) (imm : Byte) (s t : State) (h : exec (.addi r imm) s = .next t) : Frame { regs := [physOf s.rs r], psl := arithBits } s t := by
  obtain rfl := Host.Outcome.next.inj h
  exact (State.arithReg_spec _ _ _).2.2.2.2.2

theorem frame_addr (r : Reg) (op : RelOperand) (s t : State) (h : exec (.addr r op) s = .next t) : Frame { regs := [physOf s.rs r], psl := arithBits, trace := true } s t := by
  obtain rfl := Host.Outcome.next.inj h
  exact ((s.record_frame _).trans (State.arithReg_spec _ r _).2.2.2.2.2).mono (by simp [MayChange.within, MayChange.and])

theorem frame_adda (r : Reg) (op : AbsOperand) (s t : State) (h : exec (.adda r op) s = .next t) : Frame { regs := [physOf s.rs (dataReg r op.ic), physOf s.rs r], psl := arithBits, trace := true } s t := by
  obtain rfl := Host.Outcome.next.inj h
  have h6 := (State.arithReg_spec ((s.adjustIndex r op.ic).record ((s.adjustIndex r op.ic).absByteReads r op)) (dataReg r op.ic) (State.add8 (s.adjustIndex r op.ic)
    ((s.adjustIndex r op.ic).reg (dataReg r op.ic)) ((s.adjustIndex r op.ic).absByte r op))).2.2.2.2.2
  rw [State.record_rs, s.adjustIndex_rs] at h6
  exact (((s.adjustIndex_spec r op.ic).trans (State.record_frame _ _)).trans h6).mono (by simp [MayChange.within, MayChange.and])

theorem frame_subz (r : Reg) (s t : State) (h : exec (.subz r) s = .next t) : Frame { regs := [.r0], psl := arithBits } s t := by
  obtain rfl := Host.Outcome.next.inj h
  exact (State.arithReg_spec _ .r0 _).2.2.2.2.2

theorem frame_subi (r : Reg) (imm : Byte) (s t : State) (h : exec (.subi r imm) s = .next t) : Frame { regs := [physOf s.rs r], psl := arithBits } s t := by
  obtain rfl := Host.Outcome.next.inj h
  exact (State.arithReg_spec _ _ _).2.2.2.2.2

theorem frame_subr (r : Reg) (op : RelOperand) (s t : State) (h : exec (.subr r op) s = .next t) : Frame { regs := [physOf s.rs r], psl := arithBits, trace := true } s t := by
  obtain rfl := Host.Outcome.next.inj h
  exact ((s.record_frame _).trans (State.arithReg_spec _ r _).2.2.2.2.2).mono (by simp [MayChange.within, MayChange.and])

theorem frame_suba (r : Reg) (op : AbsOperand) (s t : State) (h : exec (.suba r op) s = .next t) : Frame { regs := [physOf s.rs (dataReg r op.ic), physOf s.rs r], psl := arithBits, trace := true } s t := by
  obtain rfl := Host.Outcome.next.inj h
  have h6 := (State.arithReg_spec ((s.adjustIndex r op.ic).record ((s.adjustIndex r op.ic).absByteReads r op)) (dataReg r op.ic) (State.sub8 (s.adjustIndex r op.ic)
    ((s.adjustIndex r op.ic).reg (dataReg r op.ic)) ((s.adjustIndex r op.ic).absByte r op))).2.2.2.2.2
  rw [State.record_rs, s.adjustIndex_rs] at h6
  exact (((s.adjustIndex_spec r op.ic).trans (State.record_frame _ _)).trans h6).mono (by simp [MayChange.within, MayChange.and])

theorem frame_strz (r : Reg) (s t : State) (h : exec (.strz r) s = .next t) : Frame { regs := [physOf s.rs r], psl := ccBits } s t := by
  obtain rfl := Host.Outcome.next.inj h
  exact (State.loadReg_loads _ _ _).2.2

theorem frame_strr (r : Reg) (op : RelOperand) (s t : State) (h : exec (.strr r op) s = .next t) : Frame { mem := [s.relAddress op], trace := true } s t := by
  obtain rfl := Host.Outcome.next.inj h
  exact ((s.record_frame _).trans (State.memWrite_frame _ _ _)).mono (by simp [MayChange.within, MayChange.and])

theorem frame_stra (r : Reg) (op : AbsOperand) (s t : State) (h : exec (.stra r op) s = .next t) : Frame { regs := [physOf s.rs r], mem := [(s.adjustIndex r op.ic).absAddress r op], trace := true } s t := by
  obtain rfl := Host.Outcome.next.inj h
  exact (((s.adjustIndex_spec r op.ic).trans (State.record_frame _ _)).trans (State.memWrite_frame _ _ _)).mono
    (by simp [MayChange.within, MayChange.and])

theorem frame_comz (r : Reg) (s t : State) (h : exec (.comz r) s = .next t) : Frame { psl := ccBits } s t := by
  obtain rfl := Host.Outcome.next.inj h
  exact s.setCC_frame _

theorem frame_comi (r : Reg) (imm : Byte) (s t : State) (h : exec (.comi r imm) s = .next t) : Frame { psl := ccBits } s t := by
  obtain rfl := Host.Outcome.next.inj h
  exact s.setCC_frame _

theorem frame_comr (r : Reg) (op : RelOperand) (s t : State) (h : exec (.comr r op) s = .next t) : Frame { psl := ccBits, trace := true } s t := by
  obtain rfl := Host.Outcome.next.inj h
  exact ((s.record_frame _).trans (State.setCC_frame _ _)).mono (by simp [MayChange.within, MayChange.and])

theorem frame_coma (r : Reg) (op : AbsOperand) (s t : State) (h : exec (.coma r op) s = .next t) : Frame { regs := [physOf s.rs r], psl := ccBits, trace := true } s t := by
  obtain rfl := Host.Outcome.next.inj h
  exact (((s.adjustIndex_spec r op.ic).trans (State.record_frame _ _)).trans (State.setCC_frame _ _)).mono
    (by simp [MayChange.within, MayChange.and])

theorem frame_bctr (m : Cond) (op : RelOperand) (s t : State) (h : exec (.bctr m op) s = .next t) : Frame { ip := true, trace := true } s t := by
  obtain rfl := Host.Outcome.next.inj h
  exact s.branchIf_frame _ _ _

theorem frame_bcta (m : Cond) (op : BranchOperand) (s t : State) (h : exec (.bcta m op) s = .next t) : Frame { ip := true, trace := true } s t := by
  obtain rfl := Host.Outcome.next.inj h
  exact s.branchIf_frame _ _ _

theorem frame_bstr (m : Cond) (op : RelOperand) (s t : State) (h : exec (.bstr m op) s = .next t) : Frame { ip := true, stack := [s.sp], psu := spBits, trace := true } s t := by
  obtain rfl := Host.Outcome.next.inj h
  exact s.callIf_frame _ _ _

theorem frame_bsta (m : Cond) (op : BranchOperand) (s t : State) (h : exec (.bsta m op) s = .next t) : Frame { ip := true, stack := [s.sp], psu := spBits, trace := true } s t := by
  obtain rfl := Host.Outcome.next.inj h
  exact s.callIf_frame _ _ _

theorem frame_brnr (r : Reg) (op : RelOperand) (s t : State) (h : exec (.brnr r op) s = .next t) : Frame { ip := true, trace := true } s t := by
  obtain rfl := Host.Outcome.next.inj h
  exact s.branchIf_frame _ _ _

theorem frame_brna (r : Reg) (op : BranchOperand) (s t : State) (h : exec (.brna r op) s = .next t) : Frame { ip := true, trace := true } s t := by
  obtain rfl := Host.Outcome.next.inj h
  exact s.branchIf_frame _ _ _

theorem frame_bsnr (r : Reg) (op : RelOperand) (s t : State) (h : exec (.bsnr r op) s = .next t) : Frame { ip := true, stack := [s.sp], psu := spBits, trace := true } s t := by
  obtain rfl := Host.Outcome.next.inj h
  exact s.callIf_frame _ _ _

theorem frame_bsna (r : Reg) (op : BranchOperand) (s t : State) (h : exec (.bsna r op) s = .next t) : Frame { ip := true, stack := [s.sp], psu := spBits, trace := true } s t := by
  obtain rfl := Host.Outcome.next.inj h
  exact s.callIf_frame _ _ _

theorem frame_bcfr (m : Cond) (op : RelOperand) (s t : State) (h : exec (.bcfr m op) s = .next t) : Frame { ip := true, trace := true } s t := by
  obtain rfl := Host.Outcome.next.inj h
  exact s.branchIf_frame _ _ _

theorem frame_bcfa (m : Cond) (op : BranchOperand) (s t : State) (h : exec (.bcfa m op) s = .next t) : Frame { ip := true, trace := true } s t := by
  obtain rfl := Host.Outcome.next.inj h
  exact s.branchIf_frame _ _ _

theorem frame_bsfr (m : Cond) (op : RelOperand) (s t : State) (h : exec (.bsfr m op) s = .next t) : Frame { ip := true, stack := [s.sp], psu := spBits, trace := true } s t := by
  obtain rfl := Host.Outcome.next.inj h
  exact s.callIf_frame _ _ _

theorem frame_bsfa (m : Cond) (op : BranchOperand) (s t : State) (h : exec (.bsfa m op) s = .next t) : Frame { ip := true, stack := [s.sp], psu := spBits, trace := true } s t := by
  obtain rfl := Host.Outcome.next.inj h
  exact s.callIf_frame _ _ _

theorem frame_birr (r : Reg) (op : RelOperand) (s t : State) (h : exec (.birr r op) s = .next t) : Frame { regs := [physOf s.rs r], ip := true, trace := true } s t := by
  obtain rfl := Host.Outcome.next.inj h
  exact ((s.setReg_frame r _).trans (State.branchIf_frame _ _ _ _)).mono (by simp [MayChange.within, MayChange.and])

theorem frame_bira (r : Reg) (op : BranchOperand) (s t : State) (h : exec (.bira r op) s = .next t) : Frame { regs := [physOf s.rs r], ip := true, trace := true } s t := by
  obtain rfl := Host.Outcome.next.inj h
  exact ((s.setReg_frame r _).trans (State.branchIf_frame _ _ _ _)).mono (by simp [MayChange.within, MayChange.and])

theorem frame_bdrr (r : Reg) (op : RelOperand) (s t : State) (h : exec (.bdrr r op) s = .next t) : Frame { regs := [physOf s.rs r], ip := true, trace := true } s t := by
  obtain rfl := Host.Outcome.next.inj h
  exact ((s.setReg_frame r _).trans (State.branchIf_frame _ _ _ _)).mono (by simp [MayChange.within, MayChange.and])

theorem frame_bdra (r : Reg) (op : BranchOperand) (s t : State) (h : exec (.bdra r op) s = .next t) : Frame { regs := [physOf s.rs r], ip := true, trace := true } s t := by
  obtain rfl := Host.Outcome.next.inj h
  exact ((s.setReg_frame r _).trans (State.branchIf_frame _ _ _ _)).mono (by simp [MayChange.within, MayChange.and])

theorem frame_retc (m : Cond) (s t : State) (h : exec (.retc m) s = .next t) : Frame { ip := true, psu := spBits } s t := by
  obtain rfl := Host.Outcome.next.inj h
  split
  · exact (s.returnFrom_spec false).2.2.2.2
  · exact Frame.refl _ s

theorem frame_rete (m : Cond) (s t : State) (h : exec (.rete m) s = .next t) : Frame { ip := true, psu := 5 :: spBits } s t := by
  obtain rfl := Host.Outcome.next.inj h
  split
  · exact (s.returnFrom_spec true).2.2.2.2
  · exact Frame.refl _ s

theorem frame_rrr (r : Reg) (s t : State) (h : exec (.rrr r) s = .next t) : Frame { regs := [physOf s.rs r], psl := if s.wc then [7, 6, 5, 0] else ccBits } s t := by
  obtain rfl := Host.Outcome.next.inj h
  exact (s.rotateReg_spec r _ _ _).2.2.2

theorem frame_rrl (r : Reg) (s t : State) (h : exec (.rrl r) s = .next t) : Frame { regs := [physOf s.rs r], psl := if s.wc then [7, 6, 5, 0] else ccBits } s t := by
  obtain rfl := Host.Outcome.next.inj h
  exact (s.rotateReg_spec r _ _ _).2.2.2

theorem frame_dar (r : Reg) (s t : State) (h : exec (.dar r) s = .next t) : Frame { regs := [physOf s.rs r] } s t := by
  obtain rfl := Host.Outcome.next.inj h
  exact s.setReg_frame r _

theorem frame_wrtc (r : Reg) (s t : State) (h : exec (.wrtc r) s = .next t) : Frame { trace := true } s t := by
  obtain rfl := Host.Outcome.next.inj h
  exact s.record_frame _

theorem frame_wrtd (r : Reg) (s t : State) (h : exec (.wrtd r) s = .next t) : Frame { trace := true } s t := by
  obtain rfl := Host.Outcome.next.inj h
  exact s.record_frame _

theorem frame_redc (r : Reg) (s t : State) (h : exec (.redc r) s = .next t) : Frame { regs := [physOf s.rs r], psl := ccBits, trace := true } s t := by
  obtain rfl := Host.Outcome.next.inj h
  exact ((s.record_frame _).trans (State.loadReg_loads _ r _).2.2).mono (by simp [MayChange.within, MayChange.and])

theorem frame_redd (r : Reg) (s t : State) (h : exec (.redd r) s = .next t) : Frame { regs := [physOf s.rs r], psl := ccBits, trace := true } s t := by
  obtain rfl := Host.Outcome.next.inj h
  exact ((s.record_frame _).trans (State.loadReg_loads _ r _).2.2).mono (by simp [MayChange.within, MayChange.and])

theorem frame_wrte (r : Reg) (a : Byte) (s t : State) (h : exec (.wrte r a) s = .next t) : Frame { trace := true } s t := by
  obtain rfl := Host.Outcome.next.inj h
  exact s.record_frame _

theorem frame_rede (r : Reg) (a : Byte) (s t : State) (h : exec (.rede r a) s = .next t) : Frame { regs := [physOf s.rs r], psl := ccBits, trace := true } s t := by
  obtain rfl := Host.Outcome.next.inj h
  exact ((s.record_frame _).trans (State.loadReg_loads _ r _).2.2).mono (by simp [MayChange.within, MayChange.and])

theorem frame_spsu (s t : State) (h : exec .spsu s = .next t) : Frame { regs := [.r0], psl := ccBits } s t := by
  obtain rfl := Host.Outcome.next.inj h
  exact (State.loadReg_loads _ .r0 _).2.2

theorem frame_spsl (s t : State) (h : exec .spsl s = .next t) : Frame { regs := [.r0], psl := ccBits } s t := by
  obtain rfl := Host.Outcome.next.inj h
  exact (State.loadReg_loads _ .r0 _).2.2

theorem frame_lpsu (s t : State) (h : exec .lpsu s = .next t) : Frame { psu := [7, 6, 5, 4, 3, 2, 1, 0] } s t := by
  obtain rfl := Host.Outcome.next.inj h
  exact s.setPsu_frame _

theorem frame_lpsl (s t : State) (h : exec .lpsl s = .next t) : Frame { psl := [7, 6, 5, 4, 3, 2, 1, 0] } s t := by
  obtain rfl := Host.Outcome.next.inj h
  exact s.setPsl_frame_all _

theorem frame_halt (s t : State) (h : exec .halt s = .next t) : Frame { halted := true } s t := by
  obtain rfl := Host.Outcome.next.inj h
  exact s.halted_frame _

theorem frame_cpsu (mask : Byte) (s t : State) (h : exec (.cpsu mask) s = .next t) : Frame { psu := [7, 6, 5, 4, 3, 2, 1, 0] } s t := by
  obtain rfl := Host.Outcome.next.inj h
  exact s.setPsu_frame _

theorem frame_cpsl (mask : Byte) (s t : State) (h : exec (.cpsl mask) s = .next t) : Frame { psl := [7, 6, 5, 4, 3, 2, 1, 0] } s t := by
  obtain rfl := Host.Outcome.next.inj h
  exact s.setPsl_frame_all _

theorem frame_ppsu (mask : Byte) (s t : State) (h : exec (.ppsu mask) s = .next t) : Frame { psu := [7, 6, 5, 4, 3, 2, 1, 0] } s t := by
  obtain rfl := Host.Outcome.next.inj h
  exact s.setPsu_frame _

theorem frame_ppsl (mask : Byte) (s t : State) (h : exec (.ppsl mask) s = .next t) : Frame { psl := [7, 6, 5, 4, 3, 2, 1, 0] } s t := by
  obtain rfl := Host.Outcome.next.inj h
  exact s.setPsl_frame_all _

theorem frame_tpsu (mask : Byte) (s t : State) (h : exec (.tpsu mask) s = .next t) : Frame { psl := ccBits } s t := by
  obtain rfl := Host.Outcome.next.inj h
  exact s.setCC_frame _

theorem frame_tpsl (mask : Byte) (s t : State) (h : exec (.tpsl mask) s = .next t) : Frame { psl := ccBits } s t := by
  obtain rfl := Host.Outcome.next.inj h
  exact s.setCC_frame _

theorem frame_nop (s t : State) (h : exec .nop s = .next t) : Frame {} s t := by
  obtain rfl := Host.Outcome.next.inj h
  exact Frame.refl _ _

theorem frame_tmi (r : Reg) (mask : Byte) (s t : State) (h : exec (.tmi r mask) s = .next t) : Frame { psl := ccBits } s t := by
  obtain rfl := Host.Outcome.next.inj h
  exact s.setCC_frame _

theorem frame_zbrr (op : RelOperand) (s t : State) (h : exec (.zbrr op) s = .next t) : Frame { ip := true, trace := true } s t := by
  obtain rfl := Host.Outcome.next.inj h
  exact s.branchIf_frame _ _ _

theorem frame_zbsr (op : RelOperand) (s t : State) (h : exec (.zbsr op) s = .next t) : Frame { ip := true, stack := [s.sp], psu := spBits, trace := true } s t := by
  obtain rfl := Host.Outcome.next.inj h
  exact s.callIf_frame _ _ _

theorem frame_bxa (op : BranchOperand) (s t : State) (h : exec (.bxa op) s = .next t) : Frame { ip := true, trace := true } s t := by
  obtain rfl := Host.Outcome.next.inj h
  exact s.branchIf_frame _ _ _

theorem frame_bsxa (op : BranchOperand) (s t : State) (h : exec (.bsxa op) s = .next t) : Frame { ip := true, stack := [s.sp], psu := spBits, trace := true } s t := by
  obtain rfl := Host.Outcome.next.inj h
  exact s.callIf_frame _ _ _

theorem frame_push (s t : State) (h : exec .push s = .next t) : Frame { stack := [s.sp], psu := spBits } s t := by
  obtain rfl := Host.Outcome.next.inj h
  exact (s.push16_spec _).2.2

theorem frame_pop (s t : State) (h : exec .pop s = .next t) : Frame { regs := [.r0, physOf s.rs .r1], psu := spBits } s t := by
  obtain rfl := Host.Outcome.next.inj h
  exact (s.dropTop_spec.2.trans (State.setPair_spec _ _ _).2.2).mono
    (by simp [MayChange.within, MayChange.and, State.dropTop])

theorem frame_mul (s t : State) (h : exec .mul s = .next t) : Frame { regs := [.r0, physOf s.rs .r1], psl := ccBits } s t := by
  obtain rfl := Host.Outcome.next.inj h
  exact ((s.setPair_spec _ _).2.2.trans (State.setCC_frame _ _)).mono (by simp [MayChange.within, MayChange.and])

theorem frame_xchg (s t : State) (h : exec .xchg s = .next t) : Frame { regs := [.r0, physOf s.rs .r1] } s t := by
  obtain rfl := Host.Outcome.next.inj h
  exact (s.setPair_spec _ _).2.2

theorem frame_clr (r : Reg) (s t : State) (h : exec (.clr r) s = .next t) : Frame { regs := [physOf s.rs r] } s t := by
  obtain rfl := Host.Outcome.next.inj h
  exact s.setReg_frame r _

theorem frame_trap (s t : State) (h : exec .trap s = .next t) : Frame { trapp := true } s t := by
  obtain rfl := Host.Outcome.next.inj h
  exact s.trapp_frame _

theorem frame_clrt (s t : State) (h : exec .clrt s = .next t) : Frame { trapp := true } s t := by
  obtain rfl := Host.Outcome.next.inj h
  exact s.trapp_frame _

theorem frame_cpl (r : Reg) (s t : State) (h : exec (.cpl r) s = .next t) : Frame { regs := [physOf s.rs r] } s t := by
  obtain rfl := Host.Outcome.next.inj h
  exact s.setReg_frame r _

theorem frame_pshs (s t : State) (h : exec .pshs s = .next t) : Frame { stack := [s.sp], psu := spBits } s t := by
  obtain rfl := Host.Outcome.next.inj h
  exact (s.push16_spec _).2.2

theorem frame_pops (s t : State) (h : exec .pops s = .next t) : Frame { psl := [7, 6, 5, 4, 3, 2, 1, 0], psu := [7, 6, 5, 4, 3, 2, 1, 0] } s t := by
  obtain rfl := Host.Outcome.next.inj h
  exact ((s.dropTop_spec.2.trans (State.setPsu_frame _ _)).trans (State.setPsl_frame_all _ _)).mono
    (by simp [MayChange.within, MayChange.and, spBits])

theorem frame_svb (s t : State) (h : exec .svb s = .next t) : Frame { ivb := true } s t := by
  obtain rfl := Host.Outcome.next.inj h
  exact s.ivb_frame _

theorem frame_chrp (s t : State) (h : exec .chrp s = .next t) : Frame {} s t := by
  cases h

theorem frame_lodf (r : Reg) (a : Word) (s t : State) (h : exec (.lodf r a) s = .next t) : Frame { regs := [physOf s.rs r], psl := ccBits, trace := true } s t := by
  obtain rfl := Host.Outcome.next.inj h
  exact ((s.record_frame _).trans (State.loadReg_loads _ r _).2.2).mono (by simp [MayChange.within, MayChange.and])

theorem frame_ldfi (r : Reg) (a : Word) (s t : State) (h : exec (.ldfi r a) s = .next t) : Frame { regs := [physOf s.rs r], psl := ccBits, trace := true } s t := by
  obtain rfl := Host.Outcome.next.inj h
  exact ((s.record_frame _).trans (State.loadReg_loads _ r _).2.2).mono (by simp [MayChange.within, MayChange.and])

theorem frame_strf (r : Reg) (a : Word) (s t : State) (h : exec (.strf r a) s = .next t) : Frame { mem := [a], trace := true } s t := by
  obtain rfl := Host.Outcome.next.inj h
  exact State.memWrite_frame _ _ _

theorem frame_stfi (r : Reg) (a : Word) (s t : State) (h : exec (.stfi r a) s = .next t) : Frame { mem := [s.farIAddress farIMode r a], trace := true } s t := by
  obtain rfl := Host.Outcome.next.inj h
  exact ((s.record_frame _).trans (State.memWrite_frame _ _ _)).mono (by simp [MayChange.within, MayChange.and])

theorem frame_bctf (m : Cond) (a : Word) (s t : State) (h : exec (.bctf m a) s = .next t) : Frame { ip := true, trace := true } s t := by
  obtain rfl := Host.Outcome.next.inj h
  exact s.branchIf_frame _ _ _

theorem frame_bstf (m : Cond) (a : Word) (s t : State) (h : exec (.bstf m a) s = .next t) : Frame { ip := true, stack := [s.sp], psu := spBits, trace := true } s t := by
  obtain rfl := Host.Outcome.next.inj h
  exact s.callIf_frame _ _ _

theorem frame_brnf (r : Reg) (a : Word) (s t : State) (h : exec (.brnf r a) s = .next t) : Frame { ip := true, trace := true } s t := by
  obtain rfl := Host.Outcome.next.inj h
  exact s.branchIf_frame _ _ _

theorem frame_bsnf (r : Reg) (a : Word) (s t : State) (h : exec (.bsnf r a) s = .next t) : Frame { ip := true, stack := [s.sp], psu := spBits, trace := true } s t := by
  obtain rfl := Host.Outcome.next.inj h
  exact s.callIf_frame _ _ _

theorem frame_bcff (m : Cond) (a : Word) (s t : State) (h : exec (.bcff m a) s = .next t) : Frame { ip := true, trace := true } s t := by
  obtain rfl := Host.Outcome.next.inj h
  exact s.branchIf_frame _ _ _

theorem frame_bsff (m : Cond) (a : Word) (s t : State) (h : exec (.bsff m a) s = .next t) : Frame { ip := true, stack := [s.sp], psu := spBits, trace := true } s t := by
  obtain rfl := Host.Outcome.next.inj h
  exact s.callIf_frame _ _ _

theorem frame_birf (r : Reg) (a : Word) (s t : State) (h : exec (.birf r a) s = .next t) : Frame { regs := [physOf s.rs r], ip := true, trace := true } s t := by
  obtain rfl := Host.Outcome.next.inj h
  exact ((s.setReg_frame r _).trans (State.branchIf_frame _ _ _ _)).mono (by simp [MayChange.within, MayChange.and])

theorem frame_bdrf (r : Reg) (a : Word) (s t : State) (h : exec (.bdrf r a) s = .next t) : Frame { regs := [physOf s.rs r], ip := true, trace := true } s t := by
  obtain rfl := Host.Outcome.next.inj h
  exact ((s.setReg_frame r _).trans (State.branchIf_frame _ _ _ _)).mono (by simp [MayChange.within, MayChange.and])

theorem frame_bxf (a : Word) (s t : State) (h : exec (.bxf a) s = .next t) : Frame { ip := true, trace := true } s t := by
  obtain rfl := Host.Outcome.next.inj h
  exact s.branchIf_frame _ _ _

theorem frame_bsxf (a : Word) (s t : State) (h : exec (.bsxf a) s = .next t) : Frame { ip := true, stack := [s.sp], psu := spBits, trace := true } s t := by
  obtain rfl := Host.Outcome.next.inj h
  exact s.callIf_frame _ _ _

theorem frame_extdPrefix (s t : State) (h : exec .extdPrefix s = .next t) : Frame {} s t := by
  cases h

theorem frame_reserved (s t : State) (h : exec .reserved s = .next t) : Frame {} s t := by
  cases h

theorem frame_reservedExtended (op : Byte) (s t : State) (h : exec (.reservedExtended op) s = .next t) : Frame {} s t := by
  cases h

/-- An instruction changes what the table says, and nothing else. -/
theorem exec_frame (i : Instr) (s t : State) (h : exec i s = .next t) : Frame (mayChange i s) s t := by
  cases i with
  | lodz r => exact frame_lodz r s t h
  | lodi r imm => exact frame_lodi r imm s t h
  | lodr r op => exact frame_lodr r op s t h
  | loda r op => exact frame_loda r op s t h
  | eorz r => exact frame_eorz r s t h
  | eori r imm => exact frame_eori r imm s t h
  | eorr r op => exact frame_eorr r op s t h
  | eora r op => exact frame_eora r op s t h
  | andz r => exact frame_andz r s t h
  | andi r imm => exact frame_andi r imm s t h
  | andr r op => exact frame_andr r op s t h
  | anda r op => exact frame_anda r op s t h
  | iorz r => exact frame_iorz r s t h
  | iori r imm => exact frame_iori r imm s t h
  | iorr r op => exact frame_iorr r op s t h
  | iora r op => exact frame_iora r op s t h
  | addz r => exact frame_addz r s t h
  | addi r imm => exact frame_addi r imm s t h
  | addr r op => exact frame_addr r op s t h
  | adda r op => exact frame_adda r op s t h
  | subz r => exact frame_subz r s t h
  | subi r imm => exact frame_subi r imm s t h
  | subr r op => exact frame_subr r op s t h
  | suba r op => exact frame_suba r op s t h
  | strz r => exact frame_strz r s t h
  | strr r op => exact frame_strr r op s t h
  | stra r op => exact frame_stra r op s t h
  | comz r => exact frame_comz r s t h
  | comi r imm => exact frame_comi r imm s t h
  | comr r op => exact frame_comr r op s t h
  | coma r op => exact frame_coma r op s t h
  | bctr m op => exact frame_bctr m op s t h
  | bcta m op => exact frame_bcta m op s t h
  | bstr m op => exact frame_bstr m op s t h
  | bsta m op => exact frame_bsta m op s t h
  | brnr r op => exact frame_brnr r op s t h
  | brna r op => exact frame_brna r op s t h
  | bsnr r op => exact frame_bsnr r op s t h
  | bsna r op => exact frame_bsna r op s t h
  | bcfr m op => exact frame_bcfr m op s t h
  | bcfa m op => exact frame_bcfa m op s t h
  | bsfr m op => exact frame_bsfr m op s t h
  | bsfa m op => exact frame_bsfa m op s t h
  | birr r op => exact frame_birr r op s t h
  | bira r op => exact frame_bira r op s t h
  | bdrr r op => exact frame_bdrr r op s t h
  | bdra r op => exact frame_bdra r op s t h
  | retc m => exact frame_retc m s t h
  | rete m => exact frame_rete m s t h
  | rrr r => exact frame_rrr r s t h
  | rrl r => exact frame_rrl r s t h
  | dar r => exact frame_dar r s t h
  | wrtc r => exact frame_wrtc r s t h
  | wrtd r => exact frame_wrtd r s t h
  | redc r => exact frame_redc r s t h
  | redd r => exact frame_redd r s t h
  | wrte r a => exact frame_wrte r a s t h
  | rede r a => exact frame_rede r a s t h
  | spsu => exact frame_spsu s t h
  | spsl => exact frame_spsl s t h
  | lpsu => exact frame_lpsu s t h
  | lpsl => exact frame_lpsl s t h
  | halt => exact frame_halt s t h
  | cpsu mask => exact frame_cpsu mask s t h
  | cpsl mask => exact frame_cpsl mask s t h
  | ppsu mask => exact frame_ppsu mask s t h
  | ppsl mask => exact frame_ppsl mask s t h
  | tpsu mask => exact frame_tpsu mask s t h
  | tpsl mask => exact frame_tpsl mask s t h
  | nop => exact frame_nop s t h
  | tmi r mask => exact frame_tmi r mask s t h
  | zbrr op => exact frame_zbrr op s t h
  | zbsr op => exact frame_zbsr op s t h
  | bxa op => exact frame_bxa op s t h
  | bsxa op => exact frame_bsxa op s t h
  | push => exact frame_push s t h
  | pop => exact frame_pop s t h
  | mul => exact frame_mul s t h
  | xchg => exact frame_xchg s t h
  | clr r => exact frame_clr r s t h
  | trap => exact frame_trap s t h
  | clrt => exact frame_clrt s t h
  | cpl r => exact frame_cpl r s t h
  | pshs => exact frame_pshs s t h
  | pops => exact frame_pops s t h
  | svb => exact frame_svb s t h
  | chrp => exact frame_chrp s t h
  | lodf r a => exact frame_lodf r a s t h
  | ldfi r a => exact frame_ldfi r a s t h
  | strf r a => exact frame_strf r a s t h
  | stfi r a => exact frame_stfi r a s t h
  | bctf m a => exact frame_bctf m a s t h
  | bstf m a => exact frame_bstf m a s t h
  | brnf r a => exact frame_brnf r a s t h
  | bsnf r a => exact frame_bsnf r a s t h
  | bcff m a => exact frame_bcff m a s t h
  | bsff m a => exact frame_bsff m a s t h
  | birf r a => exact frame_birf r a s t h
  | bdrf r a => exact frame_bdrf r a s t h
  | bxf a => exact frame_bxf a s t h
  | bsxf a => exact frame_bsxf a s t h
  | extdPrefix => exact frame_extdPrefix s t h
  | reserved => exact frame_reserved s t h
  | reservedExtended op => exact frame_reservedExtended op s t h

end Sys2Proof.Machine
end

