-- ==== Sys2Proof/Laws/PerInstr.lean ====
section
/-! SUPPORT. The per-instruction family `EncodedLength`: the encoder writes as many bytes as the opcode map gives the opcode
(R100, R109). -/

namespace Sys2Proof.Laws.EncodedLength

/-- R100, R109: the opcode byte, or the prefix and the opcode byte, and after it as many operand bytes as its cell of the
map says. -/
def Statement (i : Instr) : Prop :=
  WellFormed i →
    (∃ op ops, encode i = op :: ops ∧ op ≠ extPrefix ∧ ops.length = (baseEntry op).operandBytes) ∨
    (∃ op ops, encode i = extPrefix :: op :: ops ∧ ops.length = (extEntry op).operandBytes)

theorem of_base (i : Instr) (op : Byte) (ops : List Byte) (h : encode i = op :: ops) (hp : op ≠ extPrefix)
    (hl : ops.length = (baseEntry op).operandBytes) : Statement i := fun _ => .inl ⟨op, ops, h, hp, hl⟩

theorem of_ext (i : Instr) (op : Byte) (ops : List Byte) (h : encode i = extPrefix :: op :: ops)
    (hl : ops.length = (extEntry op).operandBytes) : Statement i := fun _ => .inr ⟨op, ops, h, hl⟩

theorem blank_length (op : Byte) (h : isBlankExtended op = true) : (extEntry op).operandBytes = 0 := by
  revert op
  decide

theorem lodz (r : Reg) : Statement (.lodz r) := by
  cases r <;> exact of_base _ _ _ rfl (by decide) rfl
theorem lodi (r : Reg) (imm : Byte) : Statement (.lodi r imm) := by
  cases r <;> exact of_base _ _ _ rfl (by decide) rfl
theorem lodr (r : Reg) (op : RelOperand) : Statement (.lodr r op) := by
  cases r <;> exact of_base _ _ _ rfl (by decide) rfl
theorem loda (r : Reg) (op : AbsOperand) : Statement (.loda r op) := by
  cases r <;> exact of_base _ _ _ rfl (by decide) rfl
theorem eorz (r : Reg) : Statement (.eorz r) := by
  cases r <;> exact of_base _ _ _ rfl (by decide) rfl
theorem eori (r : Reg) (imm : Byte) : Statement (.eori r imm) := by
  cases r <;> exact of_base _ _ _ rfl (by decide) rfl
theorem eorr (r : Reg) (op : RelOperand) : Statement (.eorr r op) := by
  cases r <;> exact of_base _ _ _ rfl (by decide) rfl
theorem eora (r : Reg) (op : AbsOperand) : Statement (.eora r op) := by
  cases r <;> exact of_base _ _ _ rfl (by decide) rfl
theorem andz (r : Reg) : Statement (.andz r) := by
  cases r <;> exact of_base _ _ _ rfl (by decide) rfl
theorem andi (r : Reg) (imm : Byte) : Statement (.andi r imm) := by
  cases r <;> exact of_base _ _ _ rfl (by decide) rfl
theorem andr (r : Reg) (op : RelOperand) : Statement (.andr r op) := by
  cases r <;> exact of_base _ _ _ rfl (by decide) rfl
theorem anda (r : Reg) (op : AbsOperand) : Statement (.anda r op) := by
  cases r <;> exact of_base _ _ _ rfl (by decide) rfl
theorem iorz (r : Reg) : Statement (.iorz r) := by
  cases r <;> exact of_base _ _ _ rfl (by decide) rfl
theorem iori (r : Reg) (imm : Byte) : Statement (.iori r imm) := by
  cases r <;> exact of_base _ _ _ rfl (by decide) rfl
theorem iorr (r : Reg) (op : RelOperand) : Statement (.iorr r op) := by
  cases r <;> exact of_base _ _ _ rfl (by decide) rfl
theorem iora (r : Reg) (op : AbsOperand) : Statement (.iora r op) := by
  cases r <;> exact of_base _ _ _ rfl (by decide) rfl
theorem addz (r : Reg) : Statement (.addz r) := by
  cases r <;> exact of_base _ _ _ rfl (by decide) rfl
theorem addi (r : Reg) (imm : Byte) : Statement (.addi r imm) := by
  cases r <;> exact of_base _ _ _ rfl (by decide) rfl
theorem addr (r : Reg) (op : RelOperand) : Statement (.addr r op) := by
  cases r <;> exact of_base _ _ _ rfl (by decide) rfl
theorem adda (r : Reg) (op : AbsOperand) : Statement (.adda r op) := by
  cases r <;> exact of_base _ _ _ rfl (by decide) rfl
theorem subz (r : Reg) : Statement (.subz r) := by
  cases r <;> exact of_base _ _ _ rfl (by decide) rfl
theorem subi (r : Reg) (imm : Byte) : Statement (.subi r imm) := by
  cases r <;> exact of_base _ _ _ rfl (by decide) rfl
theorem subr (r : Reg) (op : RelOperand) : Statement (.subr r op) := by
  cases r <;> exact of_base _ _ _ rfl (by decide) rfl
theorem suba (r : Reg) (op : AbsOperand) : Statement (.suba r op) := by
  cases r <;> exact of_base _ _ _ rfl (by decide) rfl
theorem strz (r : Reg) : Statement (.strz r) := by
  cases r <;> exact of_base _ _ _ rfl (by decide) rfl
theorem strr (r : Reg) (op : RelOperand) : Statement (.strr r op) := by
  cases r <;> exact of_base _ _ _ rfl (by decide) rfl
theorem stra (r : Reg) (op : AbsOperand) : Statement (.stra r op) := by
  cases r <;> exact of_base _ _ _ rfl (by decide) rfl
theorem comz (r : Reg) : Statement (.comz r) := by
  cases r <;> exact of_base _ _ _ rfl (by decide) rfl
theorem comi (r : Reg) (imm : Byte) : Statement (.comi r imm) := by
  cases r <;> exact of_base _ _ _ rfl (by decide) rfl
theorem comr (r : Reg) (op : RelOperand) : Statement (.comr r op) := by
  cases r <;> exact of_base _ _ _ rfl (by decide) rfl
theorem coma (r : Reg) (op : AbsOperand) : Statement (.coma r op) := by
  cases r <;> exact of_base _ _ _ rfl (by decide) rfl
theorem bctr (m : Cond) (op : RelOperand) : Statement (.bctr m op) := by
  cases m <;> exact of_base _ _ _ rfl (by decide) rfl
theorem bcta (m : Cond) (op : BranchOperand) : Statement (.bcta m op) := by
  cases m <;> exact of_base _ _ _ rfl (by decide) rfl
theorem bstr (m : Cond) (op : RelOperand) : Statement (.bstr m op) := by
  cases m <;> exact of_base _ _ _ rfl (by decide) rfl
theorem bsta (m : Cond) (op : BranchOperand) : Statement (.bsta m op) := by
  cases m <;> exact of_base _ _ _ rfl (by decide) rfl
theorem brnr (r : Reg) (op : RelOperand) : Statement (.brnr r op) := by
  cases r <;> exact of_base _ _ _ rfl (by decide) rfl
theorem brna (r : Reg) (op : BranchOperand) : Statement (.brna r op) := by
  cases r <;> exact of_base _ _ _ rfl (by decide) rfl
theorem bsnr (r : Reg) (op : RelOperand) : Statement (.bsnr r op) := by
  cases r <;> exact of_base _ _ _ rfl (by decide) rfl
theorem bsna (r : Reg) (op : BranchOperand) : Statement (.bsna r op) := by
  cases r <;> exact of_base _ _ _ rfl (by decide) rfl
theorem bcfr (m : Cond) (op : RelOperand) : Statement (.bcfr m op) := by
  cases m <;> exact of_base _ _ _ rfl (by decide) rfl
theorem bcfa (m : Cond) (op : BranchOperand) : Statement (.bcfa m op) := by
  cases m <;> exact of_base _ _ _ rfl (by decide) rfl
theorem bsfr (m : Cond) (op : RelOperand) : Statement (.bsfr m op) := by
  cases m <;> exact of_base _ _ _ rfl (by decide) rfl
theorem bsfa (m : Cond) (op : BranchOperand) : Statement (.bsfa m op) := by
  cases m <;> exact of_base _ _ _ rfl (by decide) rfl
theorem birr (r : Reg) (op : RelOperand) : Statement (.birr r op) := by
  cases r <;> exact of_base _ _ _ rfl (by decide) rfl
theorem bira (r : Reg) (op : BranchOperand) : Statement (.bira r op) := by
  cases r <;> exact of_base _ _ _ rfl (by decide) rfl
theorem bdrr (r : Reg) (op : RelOperand) : Statement (.bdrr r op) := by
  cases r <;> exact of_base _ _ _ rfl (by decide) rfl
theorem bdra (r : Reg) (op : BranchOperand) : Statement (.bdra r op) := by
  cases r <;> exact of_base _ _ _ rfl (by decide) rfl
theorem retc (m : Cond) : Statement (.retc m) := by
  cases m <;> exact of_base _ _ _ rfl (by decide) rfl
theorem rete (m : Cond) : Statement (.rete m) := by
  cases m <;> exact of_base _ _ _ rfl (by decide) rfl
theorem rrr (r : Reg) : Statement (.rrr r) := by
  cases r <;> exact of_base _ _ _ rfl (by decide) rfl
theorem rrl (r : Reg) : Statement (.rrl r) := by
  cases r <;> exact of_base _ _ _ rfl (by decide) rfl
theorem dar (r : Reg) : Statement (.dar r) := by
  cases r <;> exact of_base _ _ _ rfl (by decide) rfl
theorem wrtc (r : Reg) : Statement (.wrtc r) := by
  cases r <;> exact of_base _ _ _ rfl (by decide) rfl
theorem wrtd (r : Reg) : Statement (.wrtd r) := by
  cases r <;> exact of_base _ _ _ rfl (by decide) rfl
theorem redc (r : Reg) : Statement (.redc r) := by
  cases r <;> exact of_base _ _ _ rfl (by decide) rfl
theorem redd (r : Reg) : Statement (.redd r) := by
  cases r <;> exact of_base _ _ _ rfl (by decide) rfl
theorem wrte (r : Reg) (a : Byte) : Statement (.wrte r a) := by
  cases r <;> exact of_base _ _ _ rfl (by decide) rfl
theorem rede (r : Reg) (a : Byte) : Statement (.rede r a) := by
  cases r <;> exact of_base _ _ _ rfl (by decide) rfl
theorem spsu : Statement .spsu := of_base _ _ _ rfl (by decide) rfl
theorem spsl : Statement .spsl := of_base _ _ _ rfl (by decide) rfl
theorem lpsu : Statement .lpsu := of_base _ _ _ rfl (by decide) rfl
theorem lpsl : Statement .lpsl := of_base _ _ _ rfl (by decide) rfl
theorem halt : Statement .halt := of_base _ _ _ rfl (by decide) rfl
theorem cpsu (mask : Byte) : Statement (.cpsu mask) := of_base _ _ _ rfl (by decide) rfl
theorem cpsl (mask : Byte) : Statement (.cpsl mask) := of_base _ _ _ rfl (by decide) rfl
theorem ppsu (mask : Byte) : Statement (.ppsu mask) := of_base _ _ _ rfl (by decide) rfl
theorem ppsl (mask : Byte) : Statement (.ppsl mask) := of_base _ _ _ rfl (by decide) rfl
theorem tpsu (mask : Byte) : Statement (.tpsu mask) := of_base _ _ _ rfl (by decide) rfl
theorem tpsl (mask : Byte) : Statement (.tpsl mask) := of_base _ _ _ rfl (by decide) rfl
theorem nop : Statement .nop := of_base _ _ _ rfl (by decide) rfl
theorem tmi (r : Reg) (mask : Byte) : Statement (.tmi r mask) := by
  cases r <;> exact of_base _ _ _ rfl (by decide) rfl
theorem zbrr (op : RelOperand) : Statement (.zbrr op) := of_base _ _ _ rfl (by decide) rfl
theorem zbsr (op : RelOperand) : Statement (.zbsr op) := of_base _ _ _ rfl (by decide) rfl
theorem bxa (op : BranchOperand) : Statement (.bxa op) := of_base _ _ _ rfl (by decide) rfl
theorem bsxa (op : BranchOperand) : Statement (.bsxa op) := of_base _ _ _ rfl (by decide) rfl
theorem push : Statement .push := of_base _ _ _ rfl (by decide) rfl
theorem pop : Statement .pop := of_base _ _ _ rfl (by decide) rfl
theorem mul : Statement .mul := of_base _ _ _ rfl (by decide) rfl
theorem xchg : Statement .xchg := of_base _ _ _ rfl (by decide) rfl
theorem clr (r : Reg) : Statement (.clr r) := by
  cases r <;> exact of_base _ _ _ rfl (by decide) rfl
theorem trap : Statement .trap := of_ext _ _ _ rfl rfl
theorem clrt : Statement .clrt := of_ext _ _ _ rfl rfl
theorem cpl (r : Reg) : Statement (.cpl r) := by
  cases r <;> exact of_ext _ _ _ rfl rfl
theorem pshs : Statement .pshs := of_ext _ _ _ rfl rfl
theorem pops : Statement .pops := of_ext _ _ _ rfl rfl
theorem svb : Statement .svb := of_ext _ _ _ rfl rfl
theorem chrp : Statement .chrp := of_ext _ _ _ rfl rfl
theorem lodf (r : Reg) (a : Word) : Statement (.lodf r a) := by
  cases r <;> exact of_ext _ _ _ rfl rfl
theorem ldfi (r : Reg) (a : Word) : Statement (.ldfi r a) := by
  cases r <;> exact of_ext _ _ _ rfl rfl
theorem strf (r : Reg) (a : Word) : Statement (.strf r a) := by
  cases r <;> exact of_ext _ _ _ rfl rfl
theorem stfi (r : Reg) (a : Word) : Statement (.stfi r a) := by
  cases r <;> exact of_ext _ _ _ rfl rfl
theorem bctf (m : Cond) (a : Word) : Statement (.bctf m a) := by
  cases m <;> exact of_ext _ _ _ rfl rfl
theorem bstf (m : Cond) (a : Word) : Statement (.bstf m a) := by
  cases m <;> exact of_ext _ _ _ rfl rfl
theorem brnf (r : Reg) (a : Word) : Statement (.brnf r a) := by
  cases r <;> exact of_ext _ _ _ rfl rfl
theorem bsnf (r : Reg) (a : Word) : Statement (.bsnf r a) := by
  cases r <;> exact of_ext _ _ _ rfl rfl
theorem bcff (m : Cond) (a : Word) : Statement (.bcff m a) := by
  cases m <;> exact of_ext _ _ _ rfl rfl
theorem bsff (m : Cond) (a : Word) : Statement (.bsff m a) := by
  cases m <;> exact of_ext _ _ _ rfl rfl
theorem birf (r : Reg) (a : Word) : Statement (.birf r a) := by
  cases r <;> exact of_ext _ _ _ rfl rfl
theorem bdrf (r : Reg) (a : Word) : Statement (.bdrf r a) := by
  cases r <;> exact of_ext _ _ _ rfl rfl
theorem bxf (a : Word) : Statement (.bxf a) := of_ext _ _ _ rfl rfl
theorem bsxf (a : Word) : Statement (.bsxf a) := of_ext _ _ _ rfl rfl
theorem extdPrefix : Statement .extdPrefix := fun h => Bool.noConfusion h
theorem reserved : Statement .reserved := of_base _ _ _ rfl (by decide) rfl
theorem reservedExtended (op : Byte) : Statement (.reservedExtended op) :=
  fun h => .inr ⟨_, [], rfl, (blank_length op h).symm⟩

end Sys2Proof.Laws.EncodedLength
end

