-- ==== Sys2Proof/Laws/Step.lean ====
section
/-! SUPPORT. What a step and a fetch can do, said once; a proof about steps cites these and unfolds nothing. -/

namespace Sys2Proof.Machine

/-- A step that takes an interrupt (R305, R306). -/
theorem step_due (s : State) (src : IrqSource) (h : s.interruptDue = some src) : step s = .next (s.enterInterrupt src) := by
  unfold step
  rw [h]

/-- A step that waits (R44). -/
theorem step_halted (s : State) (hd : s.interruptDue = none) (hh : s.halted = true) : step s = .next s := by
  unfold step
  rw [hd, hh]
  rfl

/-- A step that runs an instruction (R128). -/
theorem step_runs (s : State) (hd : s.interruptDue = none) (hh : s.halted = false) : step s = runInstr s := by
  unfold step
  rw [hd, hh]
  rfl

theorem runInstr_next (s t : State) (h : runInstr s = .next t) :
    ∃ u, exec (fetchInstr s).1 (fetchInstr s).2 = .next u ∧ t = u.tick := by
  unfold runInstr at h
  cases he : exec (fetchInstr s).1 (fetchInstr s).2 with
  | next u =>
    rw [he] at h
    exact ⟨u, rfl, (Host.Outcome.next.inj h).symm⟩
  | fault r => rw [he] at h; exact nomatch h
  | refused r => rw [he] at h; exact nomatch h

/-- Everything a step that answers a next state can have done. -/
theorem step_cases (s t : State) (h : step s = .next t) :
    (∃ src, s.interruptDue = some src ∧ t = s.enterInterrupt src) ∨
    (s.interruptDue = none ∧ s.halted = true ∧ t = s) ∨
    (s.interruptDue = none ∧ s.halted = false ∧
      ∃ u, exec (fetchInstr s).1 (fetchInstr s).2 = .next u ∧ t = u.tick) := by
  cases hd : s.interruptDue with
  | some src =>
    rw [step_due s src hd] at h
    exact .inl ⟨src, rfl, (Host.Outcome.next.inj h).symm⟩
  | none =>
    cases hh : s.halted with
    | true =>
      rw [step_halted s hd hh] at h
      exact .inr (.inl ⟨rfl, rfl, (Host.Outcome.next.inj h).symm⟩)
    | false =>
      rw [step_runs s hd hh] at h
      exact .inr (.inr ⟨rfl, rfl, runInstr_next s t h⟩)

theorem State.advance_frame (s : State) : Frame { ip := true, trace := true } s s.advance :=
  ((s.record_frame _).trans (State.setIp_frame _ _)).mono (by simp [MayChange.within, MayChange.and])

theorem fetchOperands_frame (e : Entry) (s : State) : Frame { ip := true, trace := true } s (fetchOperands e s).2 := by
  have h2 : Frame { ip := true, trace := true } s s.advance.advance :=
    (s.advance_frame.trans s.advance.advance_frame).mono (by simp [MayChange.within, MayChange.and])
  cases e
  · exact Frame.refl _ s
  · exact s.advance_frame
  · exact s.advance_frame
  · exact h2
  · exact h2
  · exact h2

/-- The fetch changes nothing but the Instruction Pointer and the record of reads at devices (R67, R101). -/
theorem fetchInstr_frame (s : State) : Frame { ip := true, trace := true } s (fetchInstr s).2 := by
  unfold fetchInstr
  split
  · exact ((s.advance_frame.trans s.advance.advance_frame).trans (fetchOperands_frame _ _)).mono
      (by simp [MayChange.within, MayChange.and])
  · exact (s.advance_frame.trans (fetchOperands_frame _ _)).mono (by simp [MayChange.within, MayChange.and])

/-- The fetch leaves the list of memory as it is, not only what it reads as. -/
theorem fetchInstr_mem (s : State) : (fetchInstr s).2.mem = s.mem := by
  have h : ∀ e t, (fetchOperands e t).2.mem = t.mem := fun e t => by cases e <;> rfl
  unfold fetchInstr
  split <;> rw [h] <;> rfl

/-- Only the four rows without a behaviour stop: every other instruction answers a next state (R300). -/
theorem exec_next (i : Instr) (s : State) (h1 : i ≠ .chrp) (h2 : i ≠ .reserved) (h3 : ∀ op, i ≠ .reservedExtended op)
    (h4 : i ≠ .extdPrefix) : ∃ t, exec i s = .next t := by
  cases i
  case chrp => exact absurd rfl h1
  case reserved => exact absurd rfl h2
  case reservedExtended op => exact absurd rfl (h3 op)
  case extdPrefix => exact absurd rfl h4
  all_goals exact ⟨_, rfl⟩

end Sys2Proof.Machine
end

