-- ==== Sys2Proof/Tests/Slice0.lean ====
section
/-! SUPPORT. Tests of the model by hand and by the spec's own vectors, and the witnesses of the statements. -/

open Sys2Proof Sys2Proof.Machine

namespace Sys2Proof.Tests

/-! ## The checks on a term (R109, R121, R123) -/

theorem test_wf_andz_r0 : ¬ WellFormed (.andz .r0) := by decide
theorem test_wf_strz_r0 : ¬ WellFormed (.strz .r0) := by decide
theorem test_wf_bcfr_un : ¬ WellFormed (.bcfr .un ⟨false, 0x05#7⟩) := by decide
theorem test_wf_bcfa_un : ¬ WellFormed (.bcfa .un ⟨false, 0x0500#15⟩) := by decide
theorem test_wf_bsfr_un : ¬ WellFormed (.bsfr .un ⟨true, 0x05#7⟩) := by decide
theorem test_wf_bsfa_un : ¬ WellFormed (.bsfa .un ⟨false, 0x0500#15⟩) := by decide
theorem test_wf_bcff_un : ¬ WellFormed (.bcff .un 0x0500#16) := by decide
theorem test_wf_bsff_un : ¬ WellFormed (.bsff .un 0x0500#16) := by decide
theorem test_wf_prefix : ¬ WellFormed .extdPrefix := by decide
theorem test_wf_extended_taken : ¬ WellFormed (.reservedExtended 0x90#8) := by decide
theorem test_wf_extended_chrp : ¬ WellFormed (.reservedExtended 0x13#8) := by decide
theorem test_wf_extended_blank : WellFormed (.reservedExtended 0xFB#8) := by decide
theorem test_wf_lodz_r0 : WellFormed (.lodz .r0) := by decide

/-! ## Decoding: for every row of the opcode table, a word written out from its encoding (R102 to R109, R120, R121) -/

theorem test_decode_lodz : decode [0x02#8] = .ok (.lodz .r2, []) := rfl
theorem test_decode_lodi : decode [0x06#8, 0xA5#8] = .ok (.lodi .r2 0xA5#8, []) := rfl
theorem test_decode_lodr : decode [0x0A#8, 0xC3#8] = .ok (.lodr .r2 ⟨true, 0x43#7⟩, []) := rfl
theorem test_decode_loda : decode [0x0E#8, 0xB2#8, 0x34#8] = .ok (.loda .r2 ⟨true, .autoInc, 0x1234#13⟩, []) := rfl
theorem test_decode_eorz : decode [0x22#8] = .ok (.eorz .r2, []) := rfl
theorem test_decode_eori : decode [0x26#8, 0xA5#8] = .ok (.eori .r2 0xA5#8, []) := rfl
theorem test_decode_eorr : decode [0x2A#8, 0xC3#8] = .ok (.eorr .r2 ⟨true, 0x43#7⟩, []) := rfl
theorem test_decode_eora : decode [0x2E#8, 0xB2#8, 0x34#8] = .ok (.eora .r2 ⟨true, .autoInc, 0x1234#13⟩, []) := rfl
theorem test_decode_andz : decode [0x42#8] = .ok (.andz .r2, []) := rfl
theorem test_decode_andi : decode [0x46#8, 0xA5#8] = .ok (.andi .r2 0xA5#8, []) := rfl
theorem test_decode_andr : decode [0x4A#8, 0xC3#8] = .ok (.andr .r2 ⟨true, 0x43#7⟩, []) := rfl
theorem test_decode_anda : decode [0x4E#8, 0xB2#8, 0x34#8] = .ok (.anda .r2 ⟨true, .autoInc, 0x1234#13⟩, []) := rfl
theorem test_decode_iorz : decode [0x62#8] = .ok (.iorz .r2, []) := rfl
theorem test_decode_iori : decode [0x66#8, 0xA5#8] = .ok (.iori .r2 0xA5#8, []) := rfl
theorem test_decode_iorr : decode [0x6A#8, 0xC3#8] = .ok (.iorr .r2 ⟨true, 0x43#7⟩, []) := rfl
theorem test_decode_iora : decode [0x6E#8, 0xB2#8, 0x34#8] = .ok (.iora .r2 ⟨true, .autoInc, 0x1234#13⟩, []) := rfl
theorem test_decode_addz : decode [0x82#8] = .ok (.addz .r2, []) := rfl
theorem test_decode_addi : decode [0x86#8, 0xA5#8] = .ok (.addi .r2 0xA5#8, []) := rfl
theorem test_decode_addr : decode [0x8A#8, 0xC3#8] = .ok (.addr .r2 ⟨true, 0x43#7⟩, []) := rfl
theorem test_decode_adda : decode [0x8E#8, 0xB2#8, 0x34#8] = .ok (.adda .r2 ⟨true, .autoInc, 0x1234#13⟩, []) := rfl
theorem test_decode_subz : decode [0xA2#8] = .ok (.subz .r2, []) := rfl
theorem test_decode_subi : decode [0xA6#8, 0xA5#8] = .ok (.subi .r2 0xA5#8, []) := rfl
theorem test_decode_subr : decode [0xAA#8, 0xC3#8] = .ok (.subr .r2 ⟨true, 0x43#7⟩, []) := rfl
theorem test_decode_suba : decode [0xAE#8, 0xB2#8, 0x34#8] = .ok (.suba .r2 ⟨true, .autoInc, 0x1234#13⟩, []) := rfl
theorem test_decode_strz : decode [0xC2#8] = .ok (.strz .r2, []) := rfl
theorem test_decode_strr : decode [0xCA#8, 0xC3#8] = .ok (.strr .r2 ⟨true, 0x43#7⟩, []) := rfl
theorem test_decode_stra : decode [0xCE#8, 0xB2#8, 0x34#8] = .ok (.stra .r2 ⟨true, .autoInc, 0x1234#13⟩, []) := rfl
theorem test_decode_comz : decode [0xE2#8] = .ok (.comz .r2, []) := rfl
theorem test_decode_comi : decode [0xE6#8, 0xA5#8] = .ok (.comi .r2 0xA5#8, []) := rfl
theorem test_decode_comr : decode [0xEA#8, 0xC3#8] = .ok (.comr .r2 ⟨true, 0x43#7⟩, []) := rfl
theorem test_decode_coma : decode [0xEE#8, 0xB2#8, 0x34#8] = .ok (.coma .r2 ⟨true, .autoInc, 0x1234#13⟩, []) := rfl
theorem test_decode_bctr : decode [0x19#8, 0xC3#8] = .ok (.bctr .gt ⟨true, 0x43#7⟩, []) := rfl
theorem test_decode_bcta : decode [0x1D#8, 0xD6#8, 0x78#8] = .ok (.bcta .gt ⟨true, 0x5678#15⟩, []) := rfl
theorem test_decode_bstr : decode [0x39#8, 0xC3#8] = .ok (.bstr .gt ⟨true, 0x43#7⟩, []) := rfl
theorem test_decode_bsta : decode [0x3D#8, 0xD6#8, 0x78#8] = .ok (.bsta .gt ⟨true, 0x5678#15⟩, []) := rfl
theorem test_decode_brnr : decode [0x5A#8, 0xC3#8] = .ok (.brnr .r2 ⟨true, 0x43#7⟩, []) := rfl
theorem test_decode_brna : decode [0x5E#8, 0xD6#8, 0x78#8] = .ok (.brna .r2 ⟨true, 0x5678#15⟩, []) := rfl
theorem test_decode_bsnr : decode [0x7A#8, 0xC3#8] = .ok (.bsnr .r2 ⟨true, 0x43#7⟩, []) := rfl
theorem test_decode_bsna : decode [0x7E#8, 0xD6#8, 0x78#8] = .ok (.bsna .r2 ⟨true, 0x5678#15⟩, []) := rfl
theorem test_decode_bcfr : decode [0x99#8, 0xC3#8] = .ok (.bcfr .gt ⟨true, 0x43#7⟩, []) := rfl
theorem test_decode_bcfa : decode [0x9D#8, 0xD6#8, 0x78#8] = .ok (.bcfa .gt ⟨true, 0x5678#15⟩, []) := rfl
theorem test_decode_bsfr : decode [0xB9#8, 0xC3#8] = .ok (.bsfr .gt ⟨true, 0x43#7⟩, []) := rfl
theorem test_decode_bsfa : decode [0xBD#8, 0xD6#8, 0x78#8] = .ok (.bsfa .gt ⟨true, 0x5678#15⟩, []) := rfl
theorem test_decode_birr : decode [0xDA#8, 0xC3#8] = .ok (.birr .r2 ⟨true, 0x43#7⟩, []) := rfl
theorem test_decode_bira : decode [0xDE#8, 0xD6#8, 0x78#8] = .ok (.bira .r2 ⟨true, 0x5678#15⟩, []) := rfl
theorem test_decode_bdrr : decode [0xFA#8, 0xC3#8] = .ok (.bdrr .r2 ⟨true, 0x43#7⟩, []) := rfl
theorem test_decode_bdra : decode [0xFE#8, 0xD6#8, 0x78#8] = .ok (.bdra .r2 ⟨true, 0x5678#15⟩, []) := rfl
theorem test_decode_retc : decode [0x15#8] = .ok (.retc .gt, []) := rfl
theorem test_decode_rete : decode [0x35#8] = .ok (.rete .gt, []) := rfl
theorem test_decode_rrr : decode [0x52#8] = .ok (.rrr .r2, []) := rfl
theorem test_decode_rrl : decode [0xD2#8] = .ok (.rrl .r2, []) := rfl
theorem test_decode_dar : decode [0x96#8] = .ok (.dar .r2, []) := rfl
theorem test_decode_wrtc : decode [0xB2#8] = .ok (.wrtc .r2, []) := rfl
theorem test_decode_wrtd : decode [0xF2#8] = .ok (.wrtd .r2, []) := rfl
theorem test_decode_redc : decode [0x32#8] = .ok (.redc .r2, []) := rfl
theorem test_decode_redd : decode [0x72#8] = .ok (.redd .r2, []) := rfl
theorem test_decode_wrte : decode [0xD6#8, 0xA5#8] = .ok (.wrte .r2 0xA5#8, []) := rfl
theorem test_decode_rede : decode [0x56#8, 0xA5#8] = .ok (.rede .r2 0xA5#8, []) := rfl
theorem test_decode_spsu : decode [0x12#8] = .ok (.spsu, []) := rfl
theorem test_decode_spsl : decode [0x13#8] = .ok (.spsl, []) := rfl
theorem test_decode_lpsu : decode [0x92#8] = .ok (.lpsu, []) := rfl
theorem test_decode_lpsl : decode [0x93#8] = .ok (.lpsl, []) := rfl
theorem test_decode_halt : decode [0x40#8] = .ok (.halt, []) := rfl
theorem test_decode_cpsu : decode [0x74#8, 0xA5#8] = .ok (.cpsu 0xA5#8, []) := rfl
theorem test_decode_cpsl : decode [0x75#8, 0xA5#8] = .ok (.cpsl 0xA5#8, []) := rfl
theorem test_decode_ppsu : decode [0x76#8, 0xA5#8] = .ok (.ppsu 0xA5#8, []) := rfl
theorem test_decode_ppsl : decode [0x77#8, 0xA5#8] = .ok (.ppsl 0xA5#8, []) := rfl
theorem test_decode_tpsu : decode [0xB4#8, 0xA5#8] = .ok (.tpsu 0xA5#8, []) := rfl
theorem test_decode_tpsl : decode [0xB5#8, 0xA5#8] = .ok (.tpsl 0xA5#8, []) := rfl
theorem test_decode_nop : decode [0xC0#8] = .ok (.nop, []) := rfl
theorem test_decode_tmi : decode [0xF6#8, 0xA5#8] = .ok (.tmi .r2 0xA5#8, []) := rfl
theorem test_decode_zbrr : decode [0x9B#8, 0xC3#8] = .ok (.zbrr ⟨true, 0x43#7⟩, []) := rfl
theorem test_decode_zbsr : decode [0xBB#8, 0xC3#8] = .ok (.zbsr ⟨true, 0x43#7⟩, []) := rfl
theorem test_decode_bxa : decode [0x9F#8, 0xD6#8, 0x78#8] = .ok (.bxa ⟨true, 0x5678#15⟩, []) := rfl
theorem test_decode_bsxa : decode [0xBF#8, 0xD6#8, 0x78#8] = .ok (.bsxa ⟨true, 0x5678#15⟩, []) := rfl
theorem test_decode_push : decode [0x10#8] = .ok (.push, []) := rfl
theorem test_decode_pop : decode [0x11#8] = .ok (.pop, []) := rfl
theorem test_decode_mul : decode [0x90#8] = .ok (.mul, []) := rfl
theorem test_decode_xchg : decode [0x91#8] = .ok (.xchg, []) := rfl
theorem test_decode_clr : decode [0xC6#8] = .ok (.clr .r2, []) := rfl
theorem test_decode_trap : decode [0xB7#8, 0x90#8] = .ok (.trap, []) := rfl
theorem test_decode_clrt : decode [0xB7#8, 0x91#8] = .ok (.clrt, []) := rfl
theorem test_decode_cpl : decode [0xB7#8, 0xE2#8] = .ok (.cpl .r2, []) := rfl
theorem test_decode_pshs : decode [0xB7#8, 0x10#8] = .ok (.pshs, []) := rfl
theorem test_decode_pops : decode [0xB7#8, 0x11#8] = .ok (.pops, []) := rfl
theorem test_decode_svb : decode [0xB7#8, 0x12#8] = .ok (.svb, []) := rfl
theorem test_decode_chrp : decode [0xB7#8, 0x13#8] = .ok (.chrp, []) := rfl
theorem test_decode_lodf : decode [0xB7#8, 0x0A#8, 0xBE#8, 0xEF#8] = .ok (.lodf .r2 0xBEEF#16, []) := rfl
theorem test_decode_ldfi : decode [0xB7#8, 0x0E#8, 0xBE#8, 0xEF#8] = .ok (.ldfi .r2 0xBEEF#16, []) := rfl
theorem test_decode_strf : decode [0xB7#8, 0xCA#8, 0xBE#8, 0xEF#8] = .ok (.strf .r2 0xBEEF#16, []) := rfl
theorem test_decode_stfi : decode [0xB7#8, 0xCE#8, 0xBE#8, 0xEF#8] = .ok (.stfi .r2 0xBEEF#16, []) := rfl
theorem test_decode_bctf : decode [0xB7#8, 0x1D#8, 0xBE#8, 0xEF#8] = .ok (.bctf .gt 0xBEEF#16, []) := rfl
theorem test_decode_bstf : decode [0xB7#8, 0x3D#8, 0xBE#8, 0xEF#8] = .ok (.bstf .gt 0xBEEF#16, []) := rfl
theorem test_decode_brnf : decode [0xB7#8, 0x5E#8, 0xBE#8, 0xEF#8] = .ok (.brnf .r2 0xBEEF#16, []) := rfl
theorem test_decode_bsnf : decode [0xB7#8, 0x7E#8, 0xBE#8, 0xEF#8] = .ok (.bsnf .r2 0xBEEF#16, []) := rfl
theorem test_decode_bcff : decode [0xB7#8, 0x9D#8, 0xBE#8, 0xEF#8] = .ok (.bcff .gt 0xBEEF#16, []) := rfl
theorem test_decode_bsff : decode [0xB7#8, 0xBD#8, 0xBE#8, 0xEF#8] = .ok (.bsff .gt 0xBEEF#16, []) := rfl
theorem test_decode_birf : decode [0xB7#8, 0xDE#8, 0xBE#8, 0xEF#8] = .ok (.birf .r2 0xBEEF#16, []) := rfl
theorem test_decode_bdrf : decode [0xB7#8, 0xFE#8, 0xBE#8, 0xEF#8] = .ok (.bdrf .r2 0xBEEF#16, []) := rfl
theorem test_decode_bxf : decode [0xB7#8, 0x9F#8, 0xBE#8, 0xEF#8] = .ok (.bxf 0xBEEF#16, []) := rfl
theorem test_decode_bsxf : decode [0xB7#8, 0xBF#8, 0xBE#8, 0xEF#8] = .ok (.bsxf 0xBEEF#16, []) := rfl
theorem test_decode_reserved : decode [0xB6#8] = .ok (.reserved, []) := rfl
theorem test_decode_reservedExtended : decode [0xB7#8, 0x05#8] = .ok (.reservedExtended 0x05#8, []) := rfl

/-! ## One step each, on the spec's vectors (spec/95_test_vectors.md, Part 2) -/

/-- The spec's registers for a test (spec/95_test_vectors.md): a value of its own in each. -/
def base : State :=
  { State.reset with r0 := 0x3C#8, r1 := 0x5D#8, r2 := 0x6E#8, r3 := 0x71#8, r1b := 0x82#8, r2b := 0x93#8, r3b := 0xA4#8 }

/-- A state with IP at `a`, the bytes of an instruction there, and other bytes of memory. -/
def placed (s : State) (a : Word) (bytes : List Byte) (cells : List (Nat × Byte)) : State :=
  let t := storeInPage a bytes { s with ip := a }
  { t with mem := cells.foldl (fun m c => Memory.put m c.1 c.2) t.mem }

/-- One step answers a next state with `P`. -/
def runs (s : State) (P : State → Bool) : Bool :=
  match step s with
  | .next t => P t
  | .fault _ => false
  | .refused _ => false

theorem test_lodz : runs (placed ({ base with r2 := 0x80#8, r0 := 0x11#8 }) 0x0100#16 [0x02#8] [])
    (fun t => t.r0 == 0x80#8 && t.psl == 0x80#8 && t.ip == 0x0101#16) = true := by decide
theorem test_lodz_2 : runs (placed ({ base with r0 := 0x00#8, psl := 0x40#8 }) 0x0100#16 [0x00#8] [])
    (fun t => t.psl == 0x00#8 && t.ip == 0x0101#16) = true := by decide
theorem test_lodi : runs (placed base 0x0100#16 [0x07#8, 0x7F#8] [])
    (fun t => t.r3 == 0x7F#8 && t.psl == 0x40#8 && t.ip == 0x0102#16) = true := by decide
theorem test_lodi_2 : runs (placed ({ base with r1 := 0x55#8, psl := 0x81#8 }) 0x0100#16 [0x05#8, 0x00#8] [])
    (fun t => t.r1 == 0x00#8 && t.psl == 0x01#8 && t.ip == 0x0102#16) = true := by decide
theorem test_lodr : runs (placed base 0x0100#16 [0x09#8, 0x05#8] [(0x0107, 0x42#8)])
    (fun t => t.r1 == 0x42#8 && t.psl == 0x40#8 && t.ip == 0x0102#16) = true := by decide
theorem test_lodr_2 : runs (placed base 0x0100#16 [0x09#8, 0x40#8] [(0x00C2, 0x99#8)])
    (fun t => t.r1 == 0x99#8 && t.psl == 0x80#8 && t.ip == 0x0102#16) = true := by decide
theorem test_loda : runs (placed base 0x0100#16 [0x0D#8, 0x01#8, 0x23#8] [(0x0123, 0xFE#8)])
    (fun t => t.r1 == 0xFE#8 && t.psl == 0x80#8 && t.ip == 0x0103#16) = true := by decide
theorem test_loda_2 : runs (placed base 0x6100#16 [0x0D#8, 0x01#8, 0x23#8] [(0x6123, 0x33#8)])
    (fun t => t.r1 == 0x33#8 && t.psl == 0x40#8 && t.ip == 0x6103#16) = true := by decide
theorem test_eorz : runs (placed ({ base with r0 := 0xA5#8 }) 0x0100#16 [0x20#8] [])
    (fun t => t.r0 == 0x00#8 && t.ip == 0x0101#16) = true := by decide
theorem test_eorz_2 : runs (placed ({ base with r0 := 0xF0#8, r1 := 0x0F#8 }) 0x0100#16 [0x21#8] [])
    (fun t => t.r0 == 0xFF#8 && t.psl == 0x80#8 && t.ip == 0x0101#16) = true := by decide
theorem test_eori : runs (placed ({ base with r2 := 0x0F#8, psl := 0x25#8 }) 0x0100#16 [0x26#8, 0xFF#8] [])
    (fun t => t.r2 == 0xF0#8 && t.psl == 0xA5#8 && t.ip == 0x0102#16) = true := by decide
theorem test_eorr : runs (placed ({ base with r1 := 0x55#8 }) 0x0100#16 [0x29#8, 0x00#8] [(0x0102, 0x55#8)])
    (fun t => t.r1 == 0x00#8 && t.ip == 0x0102#16) = true := by decide
theorem test_eora : runs (placed ({ base with r0 := 0xFF#8, r1 := 0x00#8 }) 0x0100#16 [0x2D#8, 0x24#8, 0x00#8] [(0x0401, 0x0F#8)])
    (fun t => t.r0 == 0xF0#8 && t.r1 == 0x01#8 && t.psl == 0x80#8 && t.ip == 0x0103#16) = true := by decide
theorem test_andz : runs (placed ({ base with r0 := 0xF0#8, r1 := 0x3C#8 }) 0x0100#16 [0x41#8] [])
    (fun t => t.r0 == 0x30#8 && t.psl == 0x40#8 && t.ip == 0x0101#16) = true := by decide
theorem test_andi : runs (placed ({ base with r0 := 0xFF#8 }) 0x0100#16 [0x44#8, 0x00#8] [])
    (fun t => t.r0 == 0x00#8 && t.ip == 0x0102#16) = true := by decide
theorem test_andr : runs (placed ({ base with r3 := 0xFF#8 }) 0x0100#16 [0x4B#8, 0x7E#8] [])
    (fun t => t.r3 == 0x4B#8 && t.psl == 0x40#8 && t.ip == 0x0102#16) = true := by decide
theorem test_anda : runs (placed ({ base with r2 := 0xF1#8 }) 0x0100#16 [0x4E#8, 0x85#8, 0x00#8] [(0x0500, 0x12#8), (0x0501, 0x34#8), (0x1234, 0x8F#8)])
    (fun t => t.r2 == 0x81#8 && t.psl == 0x80#8 && t.ip == 0x0103#16) = true := by decide
theorem test_iorz : runs (placed ({ base with r0 := 0x01#8, r3 := 0x80#8 }) 0x0100#16 [0x63#8] [])
    (fun t => t.r0 == 0x81#8 && t.psl == 0x80#8 && t.ip == 0x0101#16) = true := by decide
theorem test_iori : runs (placed ({ base with r1 := 0x00#8, psl := 0x40#8 }) 0x0100#16 [0x65#8, 0x00#8] [])
    (fun t => t.psl == 0x00#8 && t.ip == 0x0102#16) = true := by decide
theorem test_iorr : runs (placed ({ base with r0 := 0x10#8 }) 0x0100#16 [0x68#8, 0x01#8] [(0x0103, 0x01#8)])
    (fun t => t.r0 == 0x11#8 && t.psl == 0x40#8 && t.ip == 0x0102#16) = true := by decide
theorem test_iora : runs (placed ({ base with r0 := 0x80#8, r2 := 0x01#8 }) 0x0100#16 [0x6E#8, 0x46#8, 0x00#8] [(0x0600, 0x01#8)])
    (fun t => t.r0 == 0x81#8 && t.r2 == 0x00#8 && t.psl == 0x80#8 && t.ip == 0x0103#16) = true := by decide
theorem test_addz : runs (placed ({ base with r0 := 0x7F#8, r1 := 0x01#8 }) 0x0100#16 [0x81#8] [])
    (fun t => t.r0 == 0x80#8 && t.psl == 0xA4#8 && t.ip == 0x0101#16) = true := by decide
theorem test_addz_2 : runs (placed ({ base with r0 := 0xFF#8, r1 := 0x01#8 }) 0x0100#16 [0x81#8] [])
    (fun t => t.r0 == 0x00#8 && t.psl == 0x21#8 && t.ip == 0x0101#16) = true := by decide
theorem test_addi : runs (placed ({ base with r0 := 0x08#8 }) 0x0100#16 [0x84#8, 0x08#8] [])
    (fun t => t.r0 == 0x10#8 && t.psl == 0x60#8 && t.ip == 0x0102#16) = true := by decide
theorem test_addi_2 : runs (placed ({ base with r0 := 0x80#8 }) 0x0100#16 [0x84#8, 0x80#8] [])
    (fun t => t.r0 == 0x00#8 && t.psl == 0x05#8 && t.ip == 0x0102#16) = true := by decide
theorem test_addr : runs (placed ({ base with r2 := 0x10#8 }) 0x0100#16 [0x8A#8, 0x02#8] [(0x0104, 0x22#8)])
    (fun t => t.r2 == 0x32#8 && t.psl == 0x40#8 && t.ip == 0x0102#16) = true := by decide
theorem test_adda : runs (placed ({ base with r0 := 0x01#8, r1 := 0x03#8 }) 0x0100#16 [0x8D#8, 0x67#8, 0x00#8] [(0x0703, 0x0F#8)])
    (fun t => t.r0 == 0x10#8 && t.psl == 0x60#8 && t.ip == 0x0103#16) = true := by decide
theorem test_subz : runs (placed ({ base with r0 := 0x05#8, r1 := 0x03#8 }) 0x0100#16 [0xA1#8] [])
    (fun t => t.r0 == 0x02#8 && t.psl == 0x61#8 && t.ip == 0x0101#16) = true := by decide
theorem test_subz_2 : runs (placed ({ base with r0 := 0x03#8, r1 := 0x05#8 }) 0x0100#16 [0xA1#8] [])
    (fun t => t.r0 == 0xFE#8 && t.psl == 0x80#8 && t.ip == 0x0101#16) = true := by decide
theorem test_subi : runs (placed ({ base with r0 := 0x80#8 }) 0x0100#16 [0xA4#8, 0x01#8] [])
    (fun t => t.r0 == 0x7F#8 && t.psl == 0x45#8 && t.ip == 0x0102#16) = true := by decide
theorem test_subi_2 : runs (placed ({ base with r0 := 0x10#8 }) 0x0100#16 [0xA4#8, 0x01#8] [])
    (fun t => t.r0 == 0x0F#8 && t.psl == 0x41#8 && t.ip == 0x0102#16) = true := by decide
theorem test_subr : runs (placed ({ base with r1 := 0x20#8 }) 0x0100#16 [0xA9#8, 0x00#8] [(0x0102, 0x20#8)])
    (fun t => t.r1 == 0x00#8 && t.psl == 0x21#8 && t.ip == 0x0102#16) = true := by decide
theorem test_suba : runs (placed ({ base with r3 := 0x00#8 }) 0x0100#16 [0xAF#8, 0x08#8, 0x00#8] [(0x0800, 0x01#8)])
    (fun t => t.r3 == 0xFF#8 && t.psl == 0x80#8 && t.ip == 0x0103#16) = true := by decide
theorem test_strz : runs (placed ({ base with r0 := 0x80#8, r1 := 0x00#8 }) 0x0100#16 [0xC1#8] [])
    (fun t => t.r1 == 0x80#8 && t.psl == 0x80#8 && t.ip == 0x0101#16) = true := by decide
theorem test_strr : runs (placed ({ base with r0 := 0xAB#8, psl := 0x40#8 }) 0x0100#16 [0xC8#8, 0x03#8] [])
    (fun t => t.byteAt 0x0105#16 == 0xAB#8 && t.ip == 0x0102#16) = true := by decide
theorem test_strr_2 : runs (placed ({ base with r2 := 0x77#8 }) 0x0102#16 [0xCA#8, 0xFE#8] [(0x0102, 0xCA#8), (0x0103, 0xFE#8)])
    (fun t => t.byteAt 0xCAFE#16 == 0x77#8 && t.ip == 0x0104#16) = true := by decide
theorem test_stra : runs (placed ({ base with r1 := 0x12#8 }) 0x0100#16 [0xCD#8, 0x09#8, 0x00#8] [])
    (fun t => t.byteAt 0x0900#16 == 0x12#8 && t.ip == 0x0103#16) = true := by decide
theorem test_stra_2 : runs (placed ({ base with r0 := 0x34#8, r1 := 0x0F#8 }) 0x0100#16 [0xCD#8, 0x29#8, 0x00#8] [])
    (fun t => t.r1 == 0x10#8 && t.byteAt 0x0910#16 == 0x34#8 && t.ip == 0x0103#16) = true := by decide
theorem test_comz : runs (placed ({ base with r0 := 0x01#8, r1 := 0xFF#8 }) 0x0100#16 [0xE1#8] [])
    (fun t => t.psl == 0x40#8 && t.ip == 0x0101#16) = true := by decide
theorem test_comz_2 : runs (placed ({ base with r0 := 0x01#8, r1 := 0xFF#8, psl := 0x02#8 }) 0x0100#16 [0xE1#8] [])
    (fun t => t.psl == 0x82#8 && t.ip == 0x0101#16) = true := by decide
theorem test_comi : runs (placed ({ base with r1 := 0x7F#8 }) 0x0100#16 [0xE5#8, 0x80#8] [])
    (fun t => t.psl == 0x40#8 && t.ip == 0x0102#16) = true := by decide
theorem test_comi_2 : runs (placed ({ base with r1 := 0x7F#8, psl := 0x02#8 }) 0x0100#16 [0xE5#8, 0x80#8] [])
    (fun t => t.psl == 0x82#8 && t.ip == 0x0102#16) = true := by decide
theorem test_comr : runs (placed ({ base with r0 := 0x00#8, psl := 0x05#8 }) 0x0100#16 [0xE8#8, 0x00#8] [(0x0102, 0x01#8)])
    (fun t => t.psl == 0x85#8 && t.ip == 0x0102#16) = true := by decide
theorem test_coma : runs (placed ({ base with r0 := 0x10#8, r3 := 0x02#8, psl := 0x40#8 }) 0x0100#16 [0xEF#8, 0x6B#8, 0x00#8] [(0x0B02, 0x10#8)])
    (fun t => t.psl == 0x00#8 && t.ip == 0x0103#16) = true := by decide
theorem test_bctr : runs (placed ({ base with psl := 0x00#8 }) 0x0100#16 [0x18#8, 0x04#8] [])
    (fun t => t.ip == 0x0106#16) = true := by decide
theorem test_bctr_2 : runs (placed ({ base with psl := 0x40#8 }) 0x0100#16 [0x18#8, 0x04#8] [])
    (fun t => t.ip == 0x0102#16) = true := by decide
theorem test_bcta : runs (placed ({ base with psl := 0x40#8 }) 0x8100#16 [0x1D#8, 0x43#8, 0x21#8] [])
    (fun t => t.ip == 0xC321#16) = true := by decide
theorem test_bcta_2 : runs (placed ({ base with psl := 0x40#8 }) 0x0100#16 [0x1D#8, 0x43#8, 0x21#8] [])
    (fun t => t.ip == 0x4321#16) = true := by decide
theorem test_bstr : runs (placed ({ base with psu := 0x20#8 }) 0x0100#16 [0x3B#8, 0x00#8] [])
    (fun t => t.stackAt 0#4 == 0x0102#16 && t.psu == 0x21#8 && t.ip == 0x0102#16) = true := by decide
theorem test_bstr_2 : runs (placed ({ base with psl := 0x80#8 }) 0x0100#16 [0x38#8, 0x00#8] [])
    (fun t => t.ip == 0x0102#16) = true := by decide
theorem test_bsta : runs (placed ({ base with psu := 0x2F#8 }) 0x0100#16 [0x3F#8, 0x10#8, 0x00#8] [])
    (fun t => t.stackAt 15#4 == 0x0103#16 && t.psu == 0x20#8 && t.ip == 0x1000#16) = true := by decide
theorem test_bcfr : runs (placed ({ base with psl := 0x40#8 }) 0x0100#16 [0x98#8, 0x04#8] [])
    (fun t => t.ip == 0x0106#16) = true := by decide
theorem test_bcfr_2 : runs (placed ({ base with psl := 0x00#8 }) 0x0100#16 [0x98#8, 0x04#8] [])
    (fun t => t.ip == 0x0102#16) = true := by decide
theorem test_bcfa : runs (placed ({ base with psl := 0x00#8 }) 0x0100#16 [0x9E#8, 0x03#8, 0x00#8] [])
    (fun t => t.ip == 0x0300#16) = true := by decide
theorem test_bsfr : runs (placed ({ base with psl := 0x40#8 }) 0x0100#16 [0xBA#8, 0x02#8] [])
    (fun t => t.stackAt 0#4 == 0x0102#16 && t.psu == 0x21#8 && t.ip == 0x0104#16) = true := by decide
theorem test_bsfa : runs (placed ({ base with psl := 0x00#8 }) 0x0100#16 [0xBC#8, 0x04#8, 0x00#8] [])
    (fun t => t.ip == 0x0103#16) = true := by decide
theorem test_brnr : runs (placed ({ base with r1 := 0x01#8 }) 0x0100#16 [0x59#8, 0x04#8] [])
    (fun t => t.ip == 0x0106#16) = true := by decide
theorem test_brnr_2 : runs (placed ({ base with r1 := 0x00#8 }) 0x0100#16 [0x59#8, 0x04#8] [])
    (fun t => t.ip == 0x0102#16) = true := by decide
theorem test_brna : runs (placed ({ base with r0 := 0x80#8 }) 0x0100#16 [0x5C#8, 0x05#8, 0x00#8] [])
    (fun t => t.ip == 0x0500#16) = true := by decide
theorem test_bsnr : runs (placed ({ base with r2 := 0xFF#8 }) 0x0100#16 [0x7A#8, 0x7C#8] [])
    (fun t => t.stackAt 0#4 == 0x0102#16 && t.psu == 0x21#8 && t.ip == 0x00FE#16) = true := by decide
theorem test_bsna : runs (placed ({ base with r3 := 0x00#8 }) 0x0100#16 [0x7F#8, 0x06#8, 0x00#8] [])
    (fun t => t.ip == 0x0103#16) = true := by decide
theorem test_birr : runs (placed ({ base with r1 := 0xFE#8 }) 0x0100#16 [0xD9#8, 0x02#8] [])
    (fun t => t.r1 == 0xFF#8 && t.ip == 0x0104#16) = true := by decide
theorem test_birr_2 : runs (placed ({ base with r1 := 0xFF#8 }) 0x0100#16 [0xD9#8, 0x02#8] [])
    (fun t => t.r1 == 0x00#8 && t.ip == 0x0102#16) = true := by decide
theorem test_bira : runs (placed ({ base with r0 := 0x00#8, psl := 0x80#8 }) 0x0100#16 [0xDC#8, 0x07#8, 0x00#8] [])
    (fun t => t.r0 == 0x01#8 && t.ip == 0x0700#16) = true := by decide
theorem test_bdrr : runs (placed ({ base with r2 := 0x02#8 }) 0x0100#16 [0xFA#8, 0x7E#8] [])
    (fun t => t.r2 == 0x01#8 && t.ip == 0x0100#16) = true := by decide
theorem test_bdrr_2 : runs (placed ({ base with r2 := 0x01#8 }) 0x0100#16 [0xFA#8, 0x7E#8] [])
    (fun t => t.r2 == 0x00#8 && t.ip == 0x0102#16) = true := by decide
theorem test_bdra : runs (placed ({ base with r3 := 0x00#8 }) 0x0100#16 [0xFF#8, 0x08#8, 0x00#8] [])
    (fun t => t.r3 == 0xFF#8 && t.ip == 0x0800#16) = true := by decide
theorem test_retc : runs (placed ({ base with psu := 0x21#8, stack := State.reset.stack.set 0 0xABCD#16 }) 0x0100#16 [0x17#8] [])
    (fun t => t.psu == 0x20#8 && t.ip == 0xABCD#16) = true := by decide
theorem test_retc_2 : runs (placed ({ base with psu := 0x22#8, psl := 0x40#8, stack := State.reset.stack.set 1 0x1234#16 }) 0x0100#16 [0x14#8] [])
    (fun t => t.ip == 0x0101#16) = true := by decide
theorem test_rete : runs (placed ({ base with psu := 0x61#8, stack := State.reset.stack.set 0 0x2002#16 }) 0x0100#16 [0x37#8] [])
    (fun t => t.psu == 0x40#8 && t.ip == 0x2002#16) = true := by decide
theorem test_rete_2 : runs (placed ({ base with psu := 0x21#8, psl := 0x00#8, stack := State.reset.stack.set 0 0x2002#16 }) 0x0100#16 [0x35#8] [])
    (fun t => t.ip == 0x0101#16) = true := by decide
theorem test_rrr : runs (placed ({ base with r0 := 0x01#8, psl := 0x01#8 }) 0x0100#16 [0x50#8] [])
    (fun t => t.r0 == 0x80#8 && t.psl == 0x81#8 && t.ip == 0x0101#16) = true := by decide
theorem test_rrr_2 : runs (placed ({ base with r0 := 0x01#8, psl := 0x08#8 }) 0x0100#16 [0x50#8] [])
    (fun t => t.r0 == 0x00#8 && t.psl == 0x09#8 && t.ip == 0x0101#16) = true := by decide
theorem test_rrl : runs (placed ({ base with r0 := 0x80#8 }) 0x0100#16 [0xD0#8] [])
    (fun t => t.r0 == 0x01#8 && t.psl == 0x40#8 && t.ip == 0x0101#16) = true := by decide
theorem test_rrl_2 : runs (placed ({ base with r2 := 0x08#8, psl := 0x09#8 }) 0x0100#16 [0xD2#8] [])
    (fun t => t.r2 == 0x11#8 && t.psl == 0x48#8 && t.ip == 0x0101#16) = true := by decide
theorem test_dar : runs (placed ({ base with r0 := 0xBA#8 }) 0x0100#16 [0x94#8] [])
    (fun t => t.r0 == 0x54#8 && t.ip == 0x0101#16) = true := by decide
theorem test_dar_2 : runs (placed ({ base with r0 := 0xE5#8, psl := 0x20#8 }) 0x0100#16 [0x94#8] [])
    (fun t => t.r0 == 0x85#8 && t.ip == 0x0101#16) = true := by decide
theorem test_wrtc : runs (placed ({ base with r1 := 0x5A#8 }) 0x0100#16 [0xB1#8] [])
    (fun t => t.ip == 0x0101#16 && t.trace == [.ioWrite .ctrl 0x5A#8]) = true := by decide
theorem test_wrtd : runs (placed ({ base with r0 := 0xA5#8 }) 0x0100#16 [0xF0#8] [])
    (fun t => t.ip == 0x0101#16 && t.trace == [.ioWrite .data 0xA5#8]) = true := by decide
theorem test_wrte : runs (placed ({ base with r3 := 0x01#8 }) 0x0100#16 [0xD7#8, 0x2A#8] [])
    (fun t => t.ip == 0x0102#16 && t.trace == [.ioWrite (.ext 0x2A#8) 0x01#8]) = true := by decide
theorem test_spsl : runs (placed ({ base with psl := 0xC9#8 }) 0x0100#16 [0x13#8] [])
    (fun t => t.r0 == 0xC9#8 && t.psl == 0x89#8 && t.ip == 0x0101#16) = true := by decide
theorem test_lpsu : runs (placed ({ base with r0 := 0xFF#8 }) 0x0100#16 [0x92#8] [])
    (fun t => t.psu == 0x7F#8 && t.ip == 0x0101#16) = true := by decide
theorem test_lpsl : runs (placed ({ base with r0 := 0xDB#8 }) 0x0100#16 [0x93#8] [])
    (fun t => t.psl == 0xDB#8 && t.ip == 0x0101#16) = true := by decide
theorem test_cpsu : runs (placed ({ base with psu := 0x65#8 }) 0x0100#16 [0x74#8, 0x20#8] [])
    (fun t => t.psu == 0x45#8 && t.ip == 0x0102#16) = true := by decide
theorem test_cpsl : runs (placed ({ base with psl := 0xFF#8 }) 0x0100#16 [0x75#8, 0xFF#8] [])
    (fun t => t.psl == 0x00#8 && t.ip == 0x0102#16) = true := by decide
theorem test_ppsu : runs (placed ({ base with psu := 0x20#8 }) 0x0100#16 [0x76#8, 0x40#8] [])
    (fun t => t.psu == 0x60#8 && t.ip == 0x0102#16) = true := by decide
theorem test_ppsl : runs (placed ({ base with psl := 0x01#8 }) 0x0100#16 [0x77#8, 0x18#8] [])
    (fun t => t.psl == 0x19#8 && t.ip == 0x0102#16) = true := by decide
theorem test_tpsl : runs (placed ({ base with psl := 0x09#8 }) 0x0100#16 [0xB5#8, 0x09#8] [])
    (fun t => t.ip == 0x0102#16) = true := by decide
theorem test_tpsl_2 : runs (placed ({ base with psl := 0x08#8 }) 0x0100#16 [0xB5#8, 0x09#8] [])
    (fun t => t.psl == 0x88#8 && t.ip == 0x0102#16) = true := by decide
theorem test_tmi : runs (placed ({ base with r1 := 0xC3#8 }) 0x0100#16 [0xF5#8, 0x81#8] [])
    (fun t => t.ip == 0x0102#16) = true := by decide
theorem test_tmi_2 : runs (placed ({ base with r1 := 0x7F#8 }) 0x0100#16 [0xF5#8, 0x81#8] [])
    (fun t => t.psl == 0x80#8 && t.ip == 0x0102#16) = true := by decide
theorem test_halt : runs (placed base 0x0100#16 [0x40#8] [])
    (fun t => t.halted && t.ip == 0x0101#16) = true := by decide
theorem test_nop : runs (placed ({ base with psl := 0x80#8 }) 0x0100#16 [0xC0#8] [])
    (fun t => t.ip == 0x0101#16) = true := by decide
theorem test_zbrr : runs (placed ({ base with psl := 0x80#8 }) 0x6100#16 [0x9B#8, 0x10#8] [])
    (fun t => t.ip == 0x0010#16) = true := by decide
theorem test_zbrr_2 : runs (placed base 0x6100#16 [0x9B#8, 0x7F#8] [])
    (fun t => t.ip == 0x1FFF#16) = true := by decide
theorem test_zbsr : runs (placed base 0x2345#16 [0xBB#8, 0x08#8] [])
    (fun t => t.stackAt 0#4 == 0x2347#16 && t.psu == 0x21#8 && t.ip == 0x0008#16) = true := by decide
theorem test_bxa : runs (placed ({ base with r3 := 0x05#8 }) 0x0100#16 [0x9F#8, 0x02#8, 0x00#8] [])
    (fun t => t.ip == 0x0205#16) = true := by decide
theorem test_bxa_2 : runs (placed ({ base with r3 := 0xFF#8 }) 0x8100#16 [0x9F#8, 0x7F#8, 0x80#8] [])
    (fun t => t.ip == 0x807F#16) = true := by decide
theorem test_bsxa : runs (placed ({ base with r3 := 0x06#8 }) 0x0100#16 [0xBF#8, 0x04#8, 0x00#8] [])
    (fun t => t.stackAt 0#4 == 0x0103#16 && t.psu == 0x21#8 && t.ip == 0x0406#16) = true := by decide
theorem test_push : runs (placed ({ base with r0 := 0x34#8, r1 := 0x12#8, psu := 0x22#8 }) 0x0100#16 [0x10#8] [])
    (fun t => t.stackAt 2#4 == 0x1234#16 && t.psu == 0x23#8 && t.ip == 0x0101#16) = true := by decide
theorem test_pop : runs (placed ({ base with psu := 0x25#8, stack := State.reset.stack.set 4 0xBEEF#16, psl := 0x40#8 }) 0x0100#16 [0x11#8] [])
    (fun t => t.r0 == 0xEF#8 && t.r1 == 0xBE#8 && t.psu == 0x24#8 && t.ip == 0x0101#16) = true := by decide
theorem test_pop_2 : runs (placed ({ base with r1 := 0x77#8, psu := 0x20#8, stack := State.reset.stack.set 15 0x0080#16 }) 0x0100#16 [0x11#8] [])
    (fun t => t.r0 == 0x80#8 && t.r1 == 0x00#8 && t.psu == 0x2F#8 && t.ip == 0x0101#16) = true := by decide
theorem test_mul : runs (placed ({ base with r0 := 0x10#8, r1 := 0x10#8 }) 0x0100#16 [0x90#8] [])
    (fun t => t.r0 == 0x00#8 && t.r1 == 0x01#8 && t.psl == 0x40#8 && t.ip == 0x0101#16) = true := by decide
theorem test_mul_2 : runs (placed ({ base with r0 := 0xFF#8, r1 := 0xFF#8 }) 0x0100#16 [0x90#8] [])
    (fun t => t.r0 == 0x01#8 && t.r1 == 0xFE#8 && t.psl == 0x80#8 && t.ip == 0x0101#16) = true := by decide
theorem test_xchg : runs (placed ({ base with r0 := 0xAA#8, r1 := 0x55#8, psl := 0x40#8 }) 0x0100#16 [0x91#8] [])
    (fun t => t.r0 == 0x55#8 && t.r1 == 0xAA#8 && t.ip == 0x0101#16) = true := by decide
theorem test_clr : runs (placed ({ base with r2 := 0x99#8, psl := 0x80#8 }) 0x0100#16 [0xC6#8] [])
    (fun t => t.r2 == 0x00#8 && t.ip == 0x0101#16) = true := by decide
theorem test_trap : runs (placed ({ base with psu := 0x20#8 }) 0x0100#16 [0xB7#8, 0x90#8] [])
    (fun t => t.trapp && t.ip == 0x0102#16) = true := by decide
theorem test_clrt : runs (placed ({ base with trapp := true }) 0x0100#16 [0xB7#8, 0x91#8] [])
    (fun t => !t.trapp && t.ip == 0x0102#16) = true := by decide
theorem test_cpl : runs (placed ({ base with r1 := 0x0F#8, psl := 0x40#8 }) 0x0100#16 [0xB7#8, 0xE1#8] [])
    (fun t => t.r1 == 0xF0#8 && t.ip == 0x0102#16) = true := by decide
theorem test_pops : runs (placed ({ base with psu := 0x24#8, stack := State.reset.stack.set 3 0xE389#16 }) 0x0100#16 [0xB7#8, 0x11#8] [])
    (fun t => t.psu == 0x63#8 && t.psl == 0x89#8 && t.ip == 0x0102#16) = true := by decide
theorem test_pops_2 : runs (placed ({ base with psu := 0x21#8, stack := State.reset.stack.set 0 0x0540#16 }) 0x0100#16 [0xB7#8, 0x11#8] [])
    (fun t => t.psu == 0x05#8 && t.psl == 0x40#8 && t.ip == 0x0102#16) = true := by decide
theorem test_svb : runs (placed ({ base with r0 := 0x5A#8, r1 := 0x12#8 }) 0x0100#16 [0xB7#8, 0x12#8] [])
    (fun t => t.ivb == 0x1250#16 && t.ip == 0x0102#16) = true := by decide
theorem test_lodf : runs (placed base 0x0100#16 [0xB7#8, 0x09#8, 0xC1#8, 0x23#8] [(0xC123, 0x80#8)])
    (fun t => t.r1 == 0x80#8 && t.psl == 0x80#8 && t.ip == 0x0104#16) = true := by decide
theorem test_lodf_2 : runs (placed ({ base with psl := 0x40#8 }) 0x0100#16 [0xB7#8, 0x0A#8, 0xFF#8, 0xFF#8] [(0xFFFF, 0x00#8)])
    (fun t => t.psl == 0x00#8 && t.ip == 0x0104#16) = true := by decide
theorem test_ldfi : runs (placed base 0x0100#16 [0xB7#8, 0x0D#8, 0x40#8, 0x00#8] [(0x4000, 0xC1#8), (0x4001, 0x23#8), (0xC123, 0x7F#8)])
    (fun t => t.r1 == 0x7F#8 && t.psl == 0x40#8 && t.ip == 0x0104#16) = true := by decide
theorem test_ldfi_2 : runs (placed base 0x0100#16 [0xB7#8, 0x0C#8, 0xFF#8, 0xFF#8] [(0xFFFF, 0x12#8), (0x0000, 0x34#8), (0x1234, 0x01#8)])
    (fun t => t.r0 == 0x01#8 && t.psl == 0x40#8 && t.ip == 0x0104#16) = true := by decide
theorem test_strf : runs (placed ({ base with r3 := 0x5A#8, psl := 0x40#8 }) 0x0100#16 [0xB7#8, 0xCB#8, 0xE0#8, 0x10#8] [])
    (fun t => t.byteAt 0xE010#16 == 0x5A#8 && t.ip == 0x0104#16) = true := by decide
theorem test_stfi : runs (placed ({ base with r2 := 0xA5#8 }) 0x0100#16 [0xB7#8, 0xCE#8, 0x20#8, 0x00#8] [(0x2000, 0x60#8), (0x2001, 0x02#8)])
    (fun t => t.byteAt 0x6002#16 == 0xA5#8 && t.ip == 0x0104#16) = true := by decide
theorem test_bctf : runs (placed ({ base with psl := 0x40#8 }) 0x0100#16 [0xB7#8, 0x1D#8, 0xE0#8, 0x00#8] [])
    (fun t => t.ip == 0xE000#16) = true := by decide
theorem test_bctf_2 : runs (placed ({ base with psl := 0x00#8 }) 0x0100#16 [0xB7#8, 0x1D#8, 0xE0#8, 0x00#8] [])
    (fun t => t.ip == 0x0104#16) = true := by decide
theorem test_bstf : runs (placed base 0x1FFD#16 [0xB7#8, 0x3F#8, 0xA0#8, 0x00#8] [])
    (fun t => t.stackAt 0#4 == 0x0001#16 && t.psu == 0x21#8 && t.ip == 0xA000#16) = true := by decide
theorem test_brnf : runs (placed ({ base with r1 := 0x01#8 }) 0x0100#16 [0xB7#8, 0x5D#8, 0x12#8, 0x34#8] [])
    (fun t => t.ip == 0x1234#16) = true := by decide
theorem test_bsnf : runs (placed ({ base with r0 := 0x80#8 }) 0x0100#16 [0xB7#8, 0x7C#8, 0xFF#8, 0xF0#8] [])
    (fun t => t.stackAt 0#4 == 0x0104#16 && t.psu == 0x21#8 && t.ip == 0xFFF0#16) = true := by decide
theorem test_bcff : runs (placed ({ base with psl := 0x40#8 }) 0x0100#16 [0xB7#8, 0x9C#8, 0x60#8, 0x00#8] [])
    (fun t => t.ip == 0x6000#16) = true := by decide
theorem test_bcff_2 : runs (placed ({ base with psl := 0x00#8 }) 0x0100#16 [0xB7#8, 0x9C#8, 0x60#8, 0x00#8] [])
    (fun t => t.ip == 0x0104#16) = true := by decide
theorem test_bsff : runs (placed ({ base with psl := 0x00#8 }) 0x0100#16 [0xB7#8, 0xBE#8, 0x60#8, 0x00#8] [])
    (fun t => t.stackAt 0#4 == 0x0104#16 && t.psu == 0x21#8 && t.ip == 0x6000#16) = true := by decide
theorem test_birf : runs (placed ({ base with r2 := 0xFF#8 }) 0x0100#16 [0xB7#8, 0xDE#8, 0x90#8, 0x00#8] [])
    (fun t => t.r2 == 0x00#8 && t.ip == 0x0104#16) = true := by decide
theorem test_birf_2 : runs (placed ({ base with r2 := 0x00#8 }) 0x0100#16 [0xB7#8, 0xDE#8, 0x90#8, 0x00#8] [])
    (fun t => t.r2 == 0x01#8 && t.ip == 0x9000#16) = true := by decide
theorem test_bdrf : runs (placed ({ base with r3 := 0x01#8 }) 0x0100#16 [0xB7#8, 0xFF#8, 0x90#8, 0x00#8] [])
    (fun t => t.r3 == 0x00#8 && t.ip == 0x0104#16) = true := by decide
theorem test_bdrf_2 : runs (placed ({ base with r3 := 0x00#8 }) 0x0100#16 [0xB7#8, 0xFF#8, 0x90#8, 0x00#8] [])
    (fun t => t.r3 == 0xFF#8 && t.ip == 0x9000#16) = true := by decide
theorem test_bxf : runs (placed ({ base with r3 := 0x09#8 }) 0x0100#16 [0xB7#8, 0x9F#8, 0x40#8, 0x00#8] [])
    (fun t => t.ip == 0x4009#16) = true := by decide
theorem test_bxf_2 : runs (placed ({ base with r3 := 0x20#8 }) 0x0100#16 [0xB7#8, 0x9F#8, 0xFF#8, 0xF0#8] [])
    (fun t => t.ip == 0x0010#16) = true := by decide
theorem test_bsxf : runs (placed ({ base with r3 := 0x06#8 }) 0x0100#16 [0xB7#8, 0xBF#8, 0xC0#8, 0x00#8] [])
    (fun t => t.stackAt 0#4 == 0x0104#16 && t.psu == 0x21#8 && t.ip == 0xC006#16) = true := by decide

/-! ## Steps on free values: what the spec fixes about them (spec/95_test_vectors.md V9, V10) -/

theorem test_redc : runs (placed base 0x0100#16 [0x32#8] [])
    (fun t => t.trace.length == 1 && t.r0 == 0x3C#8 && t.ip == 0x0101#16) = true := by decide
theorem test_redd : runs (placed base 0x0100#16 [0x70#8] [])
    (fun t => t.trace.length == 1 && t.r2 == 0x6E#8 && t.ip == 0x0101#16) = true := by decide
theorem test_rede : runs (placed base 0x0100#16 [0x55#8, 0xFF#8] [])
    (fun t => t.trace.length == 1 && t.r0 == 0x3C#8 && t.ip == 0x0102#16) = true := by decide
theorem test_spsu : runs (placed base 0x0100#16 [0x12#8] [])
    (fun t => t.psu == 0x20#8 && t.r1 == 0x5D#8 && t.ip == 0x0101#16) = true := by decide
theorem test_tpsu : runs (placed base 0x0100#16 [0xB4#8, 0x80#8] [])
    (fun t => t.psu == 0x20#8 && t.r0 == 0x3C#8 && t.ip == 0x0102#16) = true := by decide
theorem test_pshs : runs (placed { base with psu := 0x63#8, psl := 0x89#8 } 0x0100#16 [0xB7#8, 0x10#8] [])
    (fun t => t.psu == 0x64#8 && t.psl == 0x89#8 && t.ip == 0x0102#16) = true := by decide

/-! ## Stops (R122, R272) -/

theorem test_chrp : step (placed base 0x0100#16 [0xB7#8, 0x13#8] []) = .refused (.reservedOpcode [0xB7#8, 0x13#8]) := by rfl
theorem test_reserved : step (placed base 0x0100#16 [0xB6#8] []) = .refused (.reservedOpcode [0xB6#8]) := by rfl
theorem test_nested_prefix : step (placed base 0x0100#16 [0xB7#8, 0xB7#8] []) =
    .refused (.reservedOpcode [0xB7#8, 0xB7#8]) := by rfl

/-! ## Interrupts (R305 to R307, R44) and the fetch at the end of a page (R25) -/

def trapDue : State := { base with psu := 0x0F#8, trapp := true, ip := 0x1234#16 }
def irqDue : State := { base with psu := 0x00#8, irqPending := [5], ip := 0x1234#16, halted := true }

theorem test_trap_entry : runs trapDue (fun t => t.stackAt 15#4 == 0x1234#16 && t.psu == 0x20#8 && t.trapp) = true := by
  decide
theorem test_irq_wakes : runs irqDue (fun t => t.stackAt 0#4 == 0x1234#16 && t.psu == 0x21#8 && !t.halted) = true := by
  decide
theorem test_halted_waits : step { base with halted := true } = .next { base with halted := true } := by rfl
theorem test_fetch_wraps_in_page : runs (placed base 0x3FFF#16 [0x05#8, 0x7F#8] [])
    (fun t => t.r1 == 0x7F#8 && t.ip == 0x2001#16) = true := by decide

/-! ## Reads at devices (R67, R76, D22): by hand from the rules -/

/-- Pages 0 and 7 are RAM, page 1 ROM, page 2 a device, and the rest is unmapped. -/
def mapped : State :=
  { base with memMap := [⟨0x0000, 0x2000, .ram⟩, ⟨0x2000, 0x2000, .rom⟩, ⟨0x4000, 0x2000, .device⟩, ⟨0xE000, 0x2000, .ram⟩] }

/-- The addresses of the device reads recorded, oldest first. -/
def deviceReadsOf (t : State) : List Word :=
  t.trace.filterMap fun x =>
    match x with
    | .deviceRead a _ => some a
    | .deviceWrite _ _ => none
    | .ioRead _ _ => none
    | .ioWrite _ _ => none

theorem test_untaken_branch_reads_no_pointer : runs (placed mapped 0x0100#16 [0x1D#8, 0xC0#8, 0x00#8] [])
    (fun t => t.trace.length == 0 && t.ip == 0x0103#16) = true := by decide
theorem test_taken_branch_reads_its_pointer : runs (placed mapped 0x0100#16 [0x1C#8, 0xC0#8, 0x00#8] [])
    (fun t => deviceReadsOf t == [0x4000#16, 0x4001#16] && t.trace.length == 2) = true := by decide
theorem test_load_reads_a_device : runs (placed mapped 0x0100#16 [0xB7#8, 0x09#8, 0x5F#8, 0xFF#8] [])
    (fun t => deviceReadsOf t == [0x5FFF#16] && t.ip == 0x0104#16) = true := by decide
theorem test_pointer_then_operand : runs (placed mapped 0x0100#16 [0xB7#8, 0x0D#8, 0x1F#8, 0xFE#8]
    [(0x1FFE, 0x40#8), (0x1FFF, 0x10#8)]) (fun t => deviceReadsOf t == [0x4010#16]) = true := by decide
theorem test_fetch_reads_a_device : deviceReadsOf ({ mapped with ip := 0x5FFF#16 } : State).advance = [0x5FFF#16] := by decide

/-! ## The host's two functions -/

theorem test_table_word : decodeTableWord 8 0x05 = some (.lodi .r1 0x00#8) := by decide
theorem test_table_word_prefixed : decodeTableWord 16 0xB790 = some .trap := by decide
theorem test_table_word_far : decodeTableWord 16 0xB70E = some (.ldfi .r2 0x0000#16) := by decide
theorem test_table_word_prefix : decodeTableWord 8 0xB7 = some .extdPrefix := by decide
theorem test_fetch_word : runs (State.reset.withFetchWord 16 0xB790) (fun t => t.trapp && t.ip == 0x0002#16) = true := by
  decide

/-! ## Witnesses: for every statement with hypotheses, a state and operands that meet them all -/

/-- CC = 11, which only the PSL instructions can place there. -/
def cc11 : State := { base with psl := 0xC0#8 }

theorem witness_StepKeepsInvariant : StateInv (placed base 0x0100#16 [0xCC#8, 0x09#8, 0x00#8] []) ∧
    ∃ t, step (placed base 0x0100#16 [0xCC#8, 0x09#8, 0x00#8] []) = .next t := ⟨⟨rfl, rfl, rfl⟩, _, rfl⟩
theorem witness_StepKeepsInvariant_entry : StateInv irqDue ∧ ∃ t, step irqDue = .next t := ⟨⟨rfl, rfl, rfl⟩, _, rfl⟩
theorem witness_StepKeepsInvariant_svb : StateInv (placed base 0x0100#16 [0xB7#8, 0x12#8] []) ∧
    ∃ t, step (placed base 0x0100#16 [0xB7#8, 0x12#8] []) = .next t := ⟨⟨rfl, rfl, rfl⟩, _, rfl⟩
theorem witness_DecodeOfEncode : WellFormed (.bsff .lt 0xFFFF#16) ∧ WellFormed (.reservedExtended 0x00#8) ∧
    WellFormed (.loda .r3 ⟨true, .indexed, 0x1FFF#13⟩) := by decide
theorem witness_EncodeOfDecode : decode [0x0C#8, 0xFF#8, 0xFF#8, 0x00#8] =
    .ok (.loda .r0 ⟨true, .indexed, 0x1FFF#13⟩, [0x00#8]) ∧ decode [0xB7#8] = .ok (.extdPrefix, []) := ⟨rfl, rfl⟩
theorem witness_OpcodeFixesLength : WellFormed (.lodi .r1 0x00#8) ∧ WellFormed (.lodi .r1 0xFF#8) ∧
    (encode (.lodi .r1 0x00#8)).head? = (encode (.lodi .r1 0xFF#8)).head? ∧
    (encode (.lodi .r1 0x00#8)).head? ≠ some 0xB7#8 := by decide
theorem witness_OpcodeFixesLength_prefixed : WellFormed (.lodf .r1 0x0000#16) ∧ WellFormed (.lodf .r1 0xFFFF#16) ∧
    (encode (.lodf .r1 0x0000#16)).head? = some 0xB7#8 ∧ (encode (.lodf .r1 0xFFFF#16)).head? = some 0xB7#8 ∧
    (encode (.lodf .r1 0x0000#16))[1]? = (encode (.lodf .r1 0xFFFF#16))[1]? := by decide
theorem witness_StepRunsDecoded : WellFormed (.lodf .r1 0x1234#16) ∧
    (placed base 0x1FFE#16 [0xB7#8, 0x09#8, 0x12#8, 0x34#8] []).interruptDue = none ∧
    (placed base 0x1FFE#16 [0xB7#8, 0x09#8, 0x12#8, 0x34#8] []).halted = false ∧
    BytesAt (placed base 0x1FFE#16 [0xB7#8, 0x09#8, 0x12#8, 0x34#8] []) 0x1FFE#16 (encode (.lodf .r1 0x1234#16)) :=
  ⟨by decide, rfl, rfl, rfl, rfl, rfl, rfl, trivial⟩
theorem witness_StepGoesOnUnlessReserved : (placed base 0x0100#16 [0xB6#8] []).interruptDue = none ∧
    (placed base 0x0100#16 [0xB6#8] []).halted = false ∧ reservedAt (placed base 0x0100#16 [0xB6#8] []) ∧
    reservedAt (placed base 0x0100#16 [0xB7#8, 0x13#8] []) ∧ reservedAt (placed base 0x0100#16 [0xB7#8, 0xFB#8] []) ∧
    reservedAt (placed base 0x0100#16 [0xB7#8, 0x00#8] []) :=
  ⟨rfl, rfl, .inl rfl, .inr ⟨rfl, .inr rfl⟩, .inr ⟨rfl, .inl rfl⟩, .inr ⟨rfl, .inl rfl⟩⟩
theorem witness_StepGoesOnUnlessReserved_goes :
    ¬ (irqDue.interruptDue = none ∧ irqDue.halted = false ∧ reservedAt irqDue) ∧
    ¬ ((placed base 0x0100#16 [0xC0#8] []).interruptDue = none ∧ (placed base 0x0100#16 [0xC0#8] []).halted = false ∧
      reservedAt (placed base 0x0100#16 [0xC0#8] [])) :=
  ⟨fun h => Bool.noConfusion h.2.1, fun h => h.2.2.elim (fun e => absurd e (by decide)) fun e => absurd e.1 (by decide)⟩
theorem witness_PageControlWriters : (∃ t, exec (.lodi .r1 0x00#8) base = .next t) ∧
    mayWriteIp (.lodi .r1 0x00#8) = false ∧
    (∃ t, exec (.bctr .un ⟨false, 0x40#7⟩) base = .next t) ∧ mayWritePage (.bctr .un ⟨false, 0x40#7⟩) = false ∧
    (∃ t, exec (.bcta .un ⟨false, 0x7FFF#15⟩) base = .next t) ∧
    isDirectAbsoluteBranch (.bcta .un ⟨false, 0x7FFF#15⟩) = true ∧
    ∃ t, exec (.zbsr ⟨false, 0x40#7⟩) base = .next t :=
  ⟨⟨_, rfl⟩, rfl, ⟨_, rfl⟩, rfl, ⟨_, rfl⟩, rfl, _, rfl⟩
theorem witness_ControlStateWriters_psl : ∃ t, exec (.ppsl 0x1A#8) base = .next t ∧ t.com ≠ base.com ∧ t.wc ≠ base.wc ∧
    t.rs ≠ base.rs := ⟨_, rfl, by decide⟩
theorem witness_ControlStateWriters_psu : ∃ t, exec (.ppsu 0x50#8) base = .next t ∧ t.flagOut ≠ base.flagOut ∧
    t.psu.getLsbD 4 ≠ base.psu.getLsbD 4 := ⟨_, rfl, by decide⟩
theorem witness_ControlStateWriters_ii : (∃ t, exec (.cpsu 0x20#8) base = .next t ∧ t.ii ≠ base.ii) ∧
    ∃ t, exec (.rete .un) base = .next t ∧ t.ii ≠ base.ii := ⟨⟨_, rfl, by decide⟩, _, rfl, by decide⟩
theorem witness_ControlStateWriters_rest : (∃ t, exec .svb base = .next t ∧ t.ivb ≠ base.ivb) ∧
    (∃ t, exec .trap base = .next t ∧ t.trapp ≠ base.trapp) ∧
    (∃ t, exec .clrt { base with trapp := true } = .next t ∧ t.trapp ≠ true) ∧
    ∃ t, exec .halt base = .next t ∧ t.halted ≠ base.halted :=
  ⟨⟨_, rfl, by decide⟩, ⟨_, rfl, by decide⟩, ⟨_, rfl, by decide⟩, _, rfl, by decide⟩
theorem witness_ArithmeticFlagWriters : (∃ t, exec (.addi .r1 0x7F#8) base = .next t ∧ t.ovf ≠ base.ovf) ∧
    (∃ t, exec (.subi .r1 0x01#8) base = .next t ∧ t.carry ≠ base.carry) ∧
    (∃ t, exec (.ppsl 0x21#8) base = .next t ∧ t.carry ≠ base.carry ∧ t.idc ≠ base.idc) ∧
    ∃ t, exec (.rrr .r1) { base with psl := 0x08#8 } = .next t ∧ t.carry ≠ false :=
  ⟨⟨_, rfl, by decide⟩, ⟨_, rfl, by decide⟩, ⟨_, rfl, by decide⟩, _, rfl, by decide⟩
theorem witness_ConditionCodeEleven : (∃ t, exec .nop cc11 = .next t ∧ t.cc = 3#2) ∧ cc11.cc = 3#2 ∧ Cond.lt ≠ .un ∧
    ∃ t, exec (.ppsl 0xC0#8) base = .next t ∧ t.cc = 3#2 := ⟨⟨_, rfl, by decide⟩, by decide, by decide, _, rfl, by decide⟩
theorem witness_IoTransactionsCounted : (∃ t, exec (.wrte .r1 0xFF#8) base = .next t) ∧ isIo (.wrte .r1 0xFF#8) = true ∧
    (∃ t, exec (.strf .r1 0x4000#16) mapped = .next t ∧ t.trace.length = 1) ∧ isIo (.strf .r1 0x4000#16) = false ∧
    readsMemory (.strf .r1 0x4000#16) = false ∧ (∃ t, exec .nop base = .next t ∧ t.trace.length = 0) ∧
    ∃ t, exec (.lodr .r1 ⟨true, 0x00#7⟩) { mapped with ip := 0x4000#16 } = .next t :=
  ⟨⟨_, rfl⟩, rfl, ⟨_, rfl, by decide⟩, rfl, rfl, ⟨_, rfl, by decide⟩, _, rfl⟩
theorem witness_RegisterBanks : Reg.r2 ≠ .r1 ∧ Reg.r1 ≠ .r0 ∧ (0x10#8).getLsbD 4 ≠ base.rs ∧ (0x10#8).getLsbD 4 = true ∧
    (0xEF#8).getLsbD 4 = false ∧ (0xEF#8).getLsbD 4 ≠ ({ base with psl := 0x10#8 } : State).rs := by decide
theorem witness_MemoryReadAfterWrite : mapped.mapKind 0x1FFF#16 = some .ram ∧ mapped.mapKind 0x2000#16 = some .rom ∧
    mapped.mapKind 0x3FFF#16 = some .rom ∧ mapped.mapKind 0x4000#16 = some .device ∧
    mapped.mapKind 0x5FFF#16 = some .device ∧ mapped.mapKind 0x6000#16 = none ∧ mapped.mapKind 0xDFFF#16 = none ∧
    mapped.mapKind 0xFFFF#16 = some .ram ∧ (0x0000#16 : Word) ≠ 0xFFFF#16 := by decide
theorem witness_DeviceReads : mapped.mapKind 0x4000#16 = some .device ∧ mapped.mapKind 0x5FFF#16 = some .device ∧
    mapped.mapKind 0x3FFF#16 ≠ some .device ∧ mapped.mapKind 0x6000#16 ≠ some .device := by decide
theorem witness_CanonicalMemoriesEqual : Memory.wf [(0, 0x00#8), (65535, 0xFF#8)] = true ∧
    ∀ a : Word, Memory.get? [(0, 0x00#8), (65535, 0xFF#8)] a.toNat = Memory.get? [(0, 0x00#8), (65535, 0xFF#8)] a.toNat :=
  ⟨by decide, fun _ => rfl⟩
theorem witness_PointersBigEndian : mapped.mapKind 0x1FFF#16 = some .ram ∧
    mapped.mapKind (pointerSecond .page 0x1FFF#16) = some .ram ∧ mapped.mapKind 0xFFFF#16 = some .ram ∧
    mapped.mapKind (pointerSecond .flat 0xFFFF#16) = some .ram ∧ pointerSecond .page 0x1FFF#16 = 0x0000#16 ∧
    pointerSecond .page 0xFFFF#16 = 0xE000#16 ∧ pointerSecond .flat 0xFFFF#16 = 0x0000#16 := by decide
theorem witness_IndexRegisterAdjusted : IndexControl.autoInc ≠ .none ∧ IndexControl.indexed ≠ .none := by decide
theorem witness_StackLastInFirstOut : (List.replicate 16 0x1234#16).length ≤ 16 ∧
    (List.replicate 16 0x1234#16).length = 16 := by decide
theorem witness_InterruptDueWhen : (∃ src, irqDue.interruptDue = some src) ∧ irqDue.ii = false ∧ irqDue.irqPending ≠ [] ∧
    trapDue.ii = false ∧ trapDue.trapp = true := ⟨⟨_, rfl⟩, by decide, by decide, by decide, by decide⟩
theorem witness_HighestPriorityServed : ∃ src, { trapDue with irqPending := [5, 0] }.interruptDue = some src := ⟨_, rfl⟩
theorem witness_HighestPriorityServed_order : IrqSource.trap ≠ .platform 0 ∧
    ∃ x y z, servedBefore x y = true ∧ servedBefore y z = true := by
  refine ⟨by decide, ?_⟩
  rcases servedBefore_or (x := .trap) (y := .platform 0) (by decide) with a | a <;>
    rcases servedBefore_or (x := .platform 0) (y := .platform 1) (by decide) with b | b <;>
    rcases servedBefore_or (x := .trap) (y := .platform 1) (by decide) with c | c
  all_goals first
    | exact ⟨_, _, _, a, b⟩
    | exact ⟨_, _, _, b, a⟩
    | exact ⟨_, _, _, c, b⟩
    | exact ⟨_, _, _, a, c⟩
    | exact ⟨_, _, _, c, a⟩
    | exact ⟨_, _, _, b, c⟩
theorem witness_HighestPriorityServed_set : ({ trapDue with irqPending := [5, 0, 5] } : State).ii =
      ({ trapDue with irqPending := [0, 5] } : State).ii ∧
    ∀ n, n ∈ ({ trapDue with irqPending := [5, 0, 5] } : State).irqPending ↔
      n ∈ ({ trapDue with irqPending := [0, 5] } : State).irqPending :=
  ⟨rfl, fun n => by simp [or_comm, or_left_comm]⟩
theorem witness_HighestPriorityServed_trap : trapDue.interruptDue = some .trap ∧ trapDue.trapp = true := ⟨rfl, rfl⟩
theorem witness_InterruptEntry : trapDue.interruptDue = some .trap ∧ irqDue.interruptDue = some (.platform 5) := ⟨rfl, rfl⟩
theorem witness_InterruptEntry_noDevice : irqDue.interruptDue = some (.platform 5) ∧
    ∀ a ∈ Config.irqVector irqDue.ivb (.platform 5), irqDue.mapKind a ≠ some .device :=
  ⟨rfl, fun a _ => by
    have h : a.toNat < 65536 := a.isLt
    simp [irqDue, base, State.reset, State.mapKind, h]⟩
theorem witness_EntryThenReturn : irqDue.interruptDue = some (.platform 5) ∧ irqDue.halted = true := ⟨rfl, rfl⟩
theorem witness_NopHaltAndWait : ({ base with halted := true } : State).halted = true ∧
    ({ base with halted := true } : State).interruptDue = none ∧ ({ base with halted := true } : State).ii = true :=
  ⟨rfl, rfl, by decide⟩
theorem witness_TrapRequestsInterrupt : base.irqPending = [] := rfl
theorem witness_PshsPopsRoundTrip : ({ base with psu := 0x7F#8 } : State).psu.getLsbD 7 = false := by decide
theorem witness_Loads : dataReg .r3 .autoInc ≠ .r3 ∧ Reg.r3 ≠ .r0 := by decide
theorem witness_DecimalRecipes : ({ base with r1 := 0x99#8 } : State).wc = false ∧
    isBcd (({ base with r1 := 0x99#8 } : State).reg .r1) ∧ isBcd 0x99#8 ∧ isBcd 0x00#8 := ⟨rfl, by unfold isBcd; decide⟩
theorem witness_Stores : mapped.mapKind 0xE000#16 = some .ram ∧ mapped.mapKind 0x2000#16 = some .rom ∧
    mapped.mapKind 0x6000#16 = none ∧ mapped.mapKind 0x4000#16 = some .device := by decide
theorem witness_Branches : Holds .eq base ∧ ¬ Holds .gt base ∧ base.cc ≠ Cond.gt.bits ∧ ¬ base.cc ≠ Cond.eq.bits ∧
    base.reg .r1 ≠ 0#8 ∧ ¬ ({ base with r1 := 0x00#8 } : State).reg .r1 ≠ 0#8 ∧ Cond.gt ≠ .un := by unfold Holds; decide
theorem witness_CountingBranches : (base.reg .r1).toNat ≠ 255 ∧ ¬ (({ base with r1 := 0xFF#8 } : State).reg .r1).toNat ≠ 255 ∧
    (({ base with r1 := 0x00#8 } : State).reg .r1).toNat ≠ 1 ∧ ¬ (({ base with r1 := 0x01#8 } : State).reg .r1).toNat ≠ 1 := by
  decide
theorem witness_Returns : Holds .un base ∧ ¬ Holds .lt base := by unfold Holds; decide
theorem witness_RotatesAndDecimalAdjust : ({ base with psl := 0x08#8 } : State).wc = true ∧ base.wc = false := by decide
theorem witness_TestsUnderMask : (∀ k, k < 8 → (0x7F#8).getLsbD k = true → (0x7F#8).getLsbD k = true) ∧
    ∃ k, k < 8 ∧ (0xFF#8).getLsbD k = true ∧ (0x7F#8).getLsbD k = false := ⟨fun _ _ h => h, 7, by decide⟩
theorem witness_StoreToRegister : Reg.r1 ≠ .r0 ∧ Reg.r3 ≠ .r0 := by decide

end Sys2Proof.Tests
end

/-! SUPPORT. What the instructions do to the programmer's state (spec/10_state.md): the invariant, which instructions write
which part of the control state, the register banks, the internal stack and PSU. -/

namespace Sys2Proof.Machine

/-! ## Reading a frame -/

section
variable {c : MayChange} {s t : State}

theorem Frame.psl_kept (h : Frame c s t) {k : Nat} (hk : k < 8) (hc : k ∉ c.psl) : t.psl.getLsbD k = s.psl.getLsbD k := by
  obtain ⟨_, hpsl, _⟩ := h
  exact hpsl k hk hc

theorem Frame.psu_kept (h : Frame c s t) {k : Nat} (hk : k < 8) (hc : k ∉ c.psu) : t.psu.getLsbD k = s.psu.getLsbD k := by
  obtain ⟨_, _, hpsu, _⟩ := h
  exact hpsu k hk hc

theorem Frame.ip_kept (h : Frame c s t) (hc : c.ip = false) : t.ip = s.ip := by
  obtain ⟨_, _, _, _, hip, _⟩ := h
  exact hip hc

theorem Frame.ivb_kept (h : Frame c s t) (hc : c.ivb = false) : t.ivb = s.ivb := by
  obtain ⟨_, _, _, _, _, hivb, _⟩ := h
  exact hivb hc

theorem Frame.trapp_kept (h : Frame c s t) (hc : c.trapp = false) : t.trapp = s.trapp := by
  obtain ⟨_, _, _, _, _, _, htrapp, _⟩ := h
  exact htrapp hc

theorem Frame.halted_kept (h : Frame c s t) (hc : c.halted = false) : t.halted = s.halted := by
  obtain ⟨_, _, _, _, _, _, _, hhalted, _⟩ := h
  exact hhalted hc

theorem Frame.platform_kept (h : Frame c s t) : t.irqPending = s.irqPending ∧ t.memMap = s.memMap := by
  obtain ⟨_, _, _, _, _, _, _, _, _, _, hirq, hmap, _⟩ := h
  exact ⟨hirq, hmap⟩

/-- CC as a whole, where the frame holds neither of its two bits. -/
theorem Frame.cc_kept (h : Frame c s t) (h6 : 6 ∉ c.psl) (h7 : 7 ∉ c.psl) : t.cc = s.cc := by
  apply BitVec.eq_of_getLsbD_eq
  intro j hj
  have hbit : t.psl.getLsbD (6 + j) = s.psl.getLsbD (6 + j) := by
    obtain rfl | rfl : j = 0 ∨ j = 1 := by omega
    · exact h.psl_kept (by decide) h6
    · exact h.psl_kept (by decide) h7
  simp only [State.cc, BitVec.getLsbD_extractLsb', hbit]

end

/-! ## What the table of frames says of each part of the control state -/

/-- The bits of PSL an instruction may change: any, for the PSL instructions (R33); CC; C, IDC and OVF, for additions and
subtractions (R141, R142); C and IDC, for a rotate with WC = 1 (R210, R211). -/
theorem mayChange_psl (i : Instr) (s : State) (k : Nat) (hk : k ∈ (mayChange i s).psl) :
    isPslWriter i = true ∨ k ∈ ccBits ∨ (isAddOrSubtract i = true ∧ k ∈ [5, 2, 0]) ∨
      (isRotate i = true ∧ s.wc = true ∧ k ∈ [5, 0]) := by
  have harith : k ∈ arithBits → k ∈ ccBits ∨ k ∈ [5, 2, 0] := List.mem_append (s := ccBits) (t := [5, 2, 0]) |>.mp
  have hrotate : k ∈ (if s.wc then [7, 6, 5, 0] else ccBits) → k ∈ ccBits ∨ s.wc = true ∧ k ∈ [5, 0] := by
    cases s.wc
    · exact .inl
    · exact fun h => (List.mem_append (s := ccBits) (t := [5, 0]) |>.mp h).imp_right fun h => ⟨rfl, h⟩
  cases i
  case lpsl | cpsl | ppsl | pops => exact .inl rfl
  case addz | addi | addr | adda | subz | subi | subr | suba =>
    exact .inr ((harith hk).imp_right fun h => .inl ⟨rfl, h⟩)
  case rrr | rrl => exact .inr ((hrotate hk).imp_right fun h => .inr ⟨rfl, h⟩)
  case lodz | lodi | lodr | loda | eorz | eori | eorr | eora | andz | andi | andr | anda | iorz | iori | iorr | iora | strz
      | comz | comi | comr | coma | redc | redd | rede | spsu | spsl | tpsu | tpsl | tmi | mul | lodf | ldfi =>
    exact .inr (.inl hk)
  all_goals exact absurd hk List.not_mem_nil

/-- The bits of PSU an instruction may change: any, for the PSU instructions (R27); SP; II, for `rete` (R198). -/
theorem mayChange_psu (i : Instr) (s : State) (k : Nat) (hk : k ∈ (mayChange i s).psu) :
    isPsuWriter i = true ∨ k ∈ spBits ∨ (k = 5 ∧ ∃ m, i = .rete m) := by
  cases i
  case lpsu | cpsu | ppsu | pops => exact .inl rfl
  case rete m => exact .inr ((List.mem_cons.mp hk).symm.imp_right fun h => ⟨h, m, rfl⟩)
  case bstr | bsta | bsnr | bsna | bsfr | bsfa | retc | zbsr | bsxa | push | pop | pshs | bstf | bsnf | bsff | bsxf =>
    exact .inr (.inl hk)
  all_goals exact absurd hk List.not_mem_nil

/-- The branches and the returns, and no other instruction, may change IP (R128). -/
theorem mayChange_ip (i : Instr) (s : State) : (mayChange i s).ip = mayWriteIp i := by
  cases i <;> rfl

theorem mayChange_ivb (i : Instr) (s : State) (h : i ≠ .svb) : (mayChange i s).ivb = false := by
  cases i
  case svb => exact absurd rfl h
  all_goals rfl

theorem mayChange_trapp (i : Instr) (s : State) (h : ¬ (i = .trap ∨ i = .clrt)) : (mayChange i s).trapp = false := by
  cases i
  case trap => exact absurd (.inl rfl) h
  case clrt => exact absurd (.inr rfl) h
  all_goals rfl

theorem mayChange_halted (i : Instr) (s : State) (h : i ≠ .halt) : (mayChange i s).halted = false := by
  cases i
  case halt => exact absurd rfl h
  all_goals rfl

/-- A bit of PSL outside CC is kept by every instruction but the PSL instructions, unless it is one of an addition's or
subtraction's flags or one of a rotate's. -/
theorem exec_psl_kept {i : Instr} {s t : State} {k : Nat} (h : exec i s = .next t) (hi : ¬ isPslWriter i = true)
    (hk : k < 8) (hcc : k ∉ ccBits) (harith : isAddOrSubtract i = true → k ∉ [5, 2, 0])
    (hrotate : isRotate i = true → s.wc = true → k ∉ [5, 0]) : t.psl.getLsbD k = s.psl.getLsbD k := by
  refine (exec_frame i s t h).psl_kept hk fun hmem => ?_
  obtain hw | hc | ⟨ha, hf⟩ | ⟨hr, hwc, hf⟩ := mayChange_psl i s k hmem
  · exact hi hw
  · exact hcc hc
  · exact harith ha hf
  · exact hrotate hr hwc hf

/-- A bit of PSU outside SP is kept by every instruction but the PSU instructions, unless it is II and `rete` runs. -/
theorem exec_psu_kept {i : Instr} {s t : State} {k : Nat} (h : exec i s = .next t) (hi : ¬ isPsuWriter i = true)
    (hk : k < 8) (hsp : k ∉ spBits) (hii : k = 5 → ∀ m, i ≠ .rete m) : t.psu.getLsbD k = s.psu.getLsbD k := by
  refine (exec_frame i s t h).psu_kept hk fun hmem => ?_
  obtain hw | hs | ⟨h5, m, hm⟩ := mayChange_psu i s k hmem
  · exact hi hw
  · exact hsp hs
  · exact hii h5 m hm

/-! ## Memory: what each shared operation and each instruction does to the list -/

@[simp] theorem State.loadReg_mem (s : State) (r : Reg) (v : Byte) : (s.loadReg r v).mem = s.mem := s.setReg_mem r v

@[simp] theorem State.arithReg_mem (s : State) (r : Reg) (x : AluResult) : (s.arithReg r x).mem = s.mem :=
  s.setReg_mem r x.value

@[simp] theorem State.rotateReg_mem (s : State) (r : Reg) (v : Byte) (c idc : Bool) : (s.rotateReg r v c idc).mem = s.mem := by
  unfold State.rotateReg
  split <;> exact s.setReg_mem r v

@[simp] theorem State.adjustIndex_mem (s : State) (r : Reg) (ic : IndexControl) : (s.adjustIndex r ic).mem = s.mem := by
  cases ic
  · rfl
  · exact s.setReg_mem r _
  · exact s.setReg_mem r _
  · rfl

@[simp] theorem State.branchIf_mem (s : State) (c : Bool) (a : Word) (reads : List Transaction) :
    (s.branchIf c a reads).mem = s.mem := by
  cases c <;> rfl

@[simp] theorem State.callIf_mem (s : State) (c : Bool) (a : Word) (reads : List Transaction) :
    (s.callIf c a reads).mem = s.mem := by
  cases c <;> rfl

@[simp] theorem State.returnFrom_mem (s : State) (clearII : Bool) : (s.returnFrom clearII).mem = s.mem := by
  cases clearII <;> rfl

@[simp] theorem State.push16_mem (s : State) (v : Word) : (s.push16 v).mem = s.mem := rfl
@[simp] theorem State.dropTop_mem (s : State) : s.dropTop.mem = s.mem := rfl
@[simp] theorem State.ioRead_mem (s : State) (port : IoPort) : (s.ioRead port).mem = s.mem := rfl
@[simp] theorem State.ioWrite_mem (s : State) (port : IoPort) (v : Byte) : (s.ioWrite port v).mem = s.mem := rfl

/-- An instruction leaves the list of memory as it is, or, one of the four stores, writes one byte by MemWrite (R65, R169,
R170, R282, R283). -/
theorem exec_mem (i : Instr) (s t : State) (h : exec i s = .next t) :
    t.mem = s.mem ∨ ∃ u a v, u.mem = s.mem ∧ t = State.memWrite a v u := by
  cases i
  case chrp | extdPrefix | reserved | reservedExtended => exact nomatch h
  all_goals obtain rfl := Host.Outcome.next.inj h
  case strr op => exact .inr ⟨s.record (s.relReads op), _, _, rfl, rfl⟩
  case stra r op =>
    exact .inr ⟨(s.adjustIndex r op.ic).record _, _, _, s.adjustIndex_mem r op.ic, rfl⟩
  case strf => exact .inr ⟨s, _, _, rfl, rfl⟩
  case stfi r a => exact .inr ⟨s.record (s.farIReads farIMode a), _, _, rfl, rfl⟩
  case retc | rete => exact .inl (by split <;> simp)
  case nop | halt | trap | clrt | svb => exact .inl rfl
  all_goals exact .inl (by simp)

/-! ## The invariant -/

theorem exec_mem_wf (i : Instr) (s t : State) (h : exec i s = .next t) (hm : Memory.wf s.mem = true) :
    Memory.wf t.mem = true := by
  obtain hmem | ⟨u, a, v, hu, rfl⟩ := exec_mem i s t h
  · rw [hmem]
    exact hm
  · exact u.memWrite_wf a v (by rw [hu]; exact hm)

/-- PSU bit 7 has no storage (R31, D12). -/
theorem State.setPsu_bit7 (s : State) (v : Byte) : (s.setPsu v).psu.getLsbD 7 = false :=
  setPsu_getLsbD v 7 (by decide)

theorem exec_psu_bit7 (i : Instr) (s t : State) (h : exec i s = .next t) (hs : s.psu.getLsbD 7 = false) :
    t.psu.getLsbD 7 = false := by
  by_cases hi : isPsuWriter i = true
  · cases i
    case lpsu | cpsu | ppsu =>
      obtain rfl := Host.Outcome.next.inj h
      exact s.setPsu_bit7 _
    case pops =>
      obtain rfl := Host.Outcome.next.inj h
      exact s.dropTop.setPsu_bit7 _
    all_goals exact nomatch hi
  · rw [exec_psu_kept h hi (by decide) (by decide) (fun h5 => absurd h5 (by decide)), hs]

/-- `svb` writes zeros into IVB bits 3:0, and no other instruction writes IVB (R42, R271). -/
theorem exec_ivb_low (i : Instr) (s t : State) (h : exec i s = .next t) (hs : s.ivb.extractLsb' 0 4 = 0#4) :
    t.ivb.extractLsb' 0 4 = 0#4 := by
  by_cases hi : i = .svb
  · subst hi
    obtain rfl := Host.Outcome.next.inj h
    exact append_extractLow _ _
  · rw [(exec_frame i s t h).ivb_kept (mayChange_ivb i s hi), hs]

theorem exec_keeps_inv (i : Instr) (s t : State) (h : exec i s = .next t) (hs : StateInv s) : StateInv t := by
  obtain ⟨hmem, hpsu, hivb⟩ := hs
  exact ⟨exec_mem_wf i s t h hmem, exec_psu_bit7 i s t h hpsu, exec_ivb_low i s t h hivb⟩

theorem fetchInstr_keeps_inv (s : State) (hs : StateInv s) : StateInv (fetchInstr s).2 := by
  obtain ⟨hmem, hpsu, hivb⟩ := hs
  have hf := fetchInstr_frame s
  refine ⟨?_, ?_, ?_⟩
  · rw [fetchInstr_mem, hmem]
  · rw [hf.psu_kept (by decide) List.not_mem_nil, hpsu]
  · rw [hf.ivb_kept rfl, hivb]

theorem State.enterInterrupt_keeps_inv (s : State) (src : IrqSource) (hs : StateInv s) :
    StateInv (s.enterInterrupt src) := by
  obtain ⟨hmem, hpsu, hivb⟩ := hs
  obtain ⟨_, _, _, _, _, _, hf⟩ := s.enterInterrupt_spec src
  refine ⟨hmem, ?_, ?_⟩
  · rw [hf.psu_kept (by decide) (by simp [spBits]), State.record_psu, hpsu]
  · rw [hf.ivb_kept rfl, State.record_ivb, hivb]

/-- Settles O3: taking an interrupt, waiting, and running an instruction after its fetch each keep the invariant. -/
theorem stepKeepsInvariant : Obligations.StepKeepsInvariant := by
  intro s t hs h
  obtain ⟨src, _, rfl⟩ | ⟨_, _, rfl⟩ | ⟨_, _, u, hu, rfl⟩ := step_cases s t h
  · exact s.enterInterrupt_keeps_inv src hs
  · exact hs
  · exact exec_keeps_inv _ _ u hu (fetchInstr_keeps_inv s hs)

/-- Settles O2. -/
theorem resetMeetsInvariant : Obligations.ResetMeetsInvariant :=
  ⟨reset_mem_wf, by decide, by decide⟩

/-- Settles O1: no interrupt is due because reset sets II. -/
theorem resetStatus : Obligations.ResetStatus := by
  have hii : State.reset.ii = true := by decide
  have hdue : State.reset.interruptDue = none := State.reset.interruptDue_none.mpr (.inl hii)
  refine ⟨rfl, ?_, hii, ?_, rfl, ?_, ?_, ?_, ?_, ?_, ?_, ?_, rfl, rfl, hdue⟩
  all_goals decide

/-! ## Who writes what -/

/-- Settles O13: each clause is the table of frames read at the bits or the field it speaks of. -/
theorem controlStateWriters : Obligations.ControlStateWriters := by
  intro i s t h
  have hf := exec_frame i s t h
  have hpsl : ∀ k ∈ [1, 3, 4], ¬ isPslWriter i = true → t.psl.getLsbD k = s.psl.getLsbD k := by
    intro k hk hi
    obtain ⟨hlt, hcc, har, hro⟩ : k < 8 ∧ k ∉ ccBits ∧ k ∉ [5, 2, 0] ∧ k ∉ [5, 0] := by
      revert k
      decide
    exact exec_psl_kept h hi hlt hcc (fun _ => har) (fun _ _ => hro)
  have hpsu : ∀ k ∈ [4, 6], ¬ isPsuWriter i = true → t.psu.getLsbD k = s.psu.getLsbD k := by
    intro k hk hi
    obtain ⟨hlt, hsp, h5⟩ : k < 8 ∧ k ∉ spBits ∧ k ≠ 5 := by
      revert k
      decide
    exact exec_psu_kept h hi hlt hsp (fun e => absurd e h5)
  refine ⟨fun hne => ?_, fun hne => ?_, fun hne => ?_, fun hne => ?_, fun hne => ?_, fun hne => ?_, hf.platform_kept⟩
  · by_contra hi
    obtain hne | hne | hne := hne
    · exact hne (hpsl 1 (by decide) hi)
    · exact hne (hpsl 3 (by decide) hi)
    · exact hne (hpsl 4 (by decide) hi)
  · by_contra hi
    obtain hne | hne := hne
    · exact hne (hpsu 6 (by decide) hi)
    · exact hne (hpsu 4 (by decide) hi)
  · by_contra hi
    obtain ⟨hw, hrete⟩ := not_or.mp hi
    exact hne (exec_psu_kept h hw (by decide) (by decide) fun _ m hm => hrete ⟨m, hm⟩)
  · by_contra hi
    exact hne (hf.ivb_kept (mayChange_ivb i s hi))
  · by_contra hi
    exact hne (hf.trapp_kept (mayChange_trapp i s hi))
  · by_contra hi
    exact hne (hf.halted_kept (mayChange_halted i s hi))

/-- Settles O14: each clause is the table of frames read at the flag it speaks of. -/
theorem arithmeticFlagWriters : Obligations.ArithmeticFlagWriters := by
  intro i s t h
  refine ⟨fun hne => ?_, fun hne => ?_⟩
  · by_contra hi
    obtain ⟨hadd, hw⟩ := not_or.mp hi
    exact hne (exec_psl_kept h hw (by decide) (by decide) (fun ha => absurd ha hadd) fun _ _ => by decide)
  · by_contra hi
    obtain ⟨hadd, hi⟩ := not_or.mp hi
    obtain ⟨hw, hro⟩ := not_or.mp hi
    have hkept : ∀ k, k < 8 → k ∉ ccBits → t.psl.getLsbD k = s.psl.getLsbD k := fun k hk hcc =>
      exec_psl_kept h hw hk hcc (fun ha => absurd ha hadd) fun hr hwc => absurd ⟨hr, hwc⟩ hro
    obtain hne | hne := hne
    · exact hne (hkept 0 (by decide) (by decide))
    · exact hne (hkept 5 (by decide) (by decide))

/-! ## The Instruction Pointer and its page (R24 to R26, R128) -/

@[simp] theorem State.advance_page (s : State) : s.advance.page = s.page := nextInPage_page s.ip

theorem fetchOperands_page (e : Entry) (s : State) : (fetchOperands e s).2.page = s.page := by
  cases e
  case one => rfl
  case imm | rel => exact s.advance_page
  case abs | branch | far => exact s.advance.advance_page.trans s.advance_page

theorem fetchInstr_page (s : State) : (fetchInstr s).2.page = s.page := by
  unfold fetchInstr
  split <;> simp [fetchOperands_page]

/-- Where IP can be after a branch: whatever holds of the target and of the next instruction's address. -/
theorem State.branchIf_ip_of (P : Word → Prop) (s : State) (c : Bool) (a : Word) (reads : List Transaction) (ha : P a)
    (hs : P s.ip) : P (s.branchIf c a reads).ip := by
  obtain ⟨_, h⟩ | ⟨_, h⟩ := s.branchIf_cases c a reads <;> rw [h]
  · exact ha
  · exact hs

theorem State.callIf_ip_of (P : Word → Prop) (s : State) (c : Bool) (a : Word) (reads : List Transaction) (ha : P a)
    (hs : P s.ip) : P (s.callIf c a reads).ip := by
  obtain ⟨_, h⟩ | ⟨_, h⟩ := s.callIf_cases c a reads <;> rw [h]
  · exact ha
  · exact hs

/-- A direct relative address is in the page of the instruction (R112). -/
theorem State.relAddress_page (s : State) (op : RelOperand) (h : op.ind = false) :
    (s.relAddress op).extractLsb' 13 3 = s.page := by
  unfold State.relAddress State.follow
  rw [h]
  exact append_extractHigh _ _

/-- A direct zero-relative address is in page 0 (R113). -/
theorem State.zeroAddress_page (s : State) (op : RelOperand) (h : op.ind = false) :
    (s.zeroAddress op).extractLsb' 13 3 = 0#3 := by
  unfold State.zeroAddress State.follow
  rw [h]
  exact append_extractHigh _ _

/-- A 15-bit branch address is in the half of memory the instruction is in (R115). -/
theorem State.inHalf_bit15 (s : State) (a : BitVec 15) : (s.inHalf a).getLsbD 15 = s.ip.getLsbD 15 := by
  refine BitVec.getLsbD_append.trans ?_
  rw [if_neg (by decide), BitVec.getLsbD_extractLsb']
  rfl

theorem State.branchAddress_bit15 (s : State) (op : BranchOperand) (h : op.ind = false) :
    (s.branchAddress op).getLsbD 15 = s.ip.getLsbD 15 := by
  unfold State.branchAddress State.follow
  rw [h]
  exact s.inHalf_bit15 _

theorem State.indexedBranchAddress_bit15 (s : State) (op : BranchOperand) (h : op.ind = false) :
    (s.indexedBranchAddress op).getLsbD 15 = s.ip.getLsbD 15 := by
  unfold State.indexedBranchAddress
  rw [h]
  exact s.inHalf_bit15 _

/-- The direct relative branches, which alone may write IP and not Page Control, stay in the page (R26, R112). -/
theorem exec_page (i : Instr) (s t : State) (h : exec i s = .next t) (hp : mayWritePage i = false) : t.page = s.page := by
  by_cases hi : mayWriteIp i = true
  · cases i
    case bctr m op | bcfr m op | brnr m op =>
      obtain rfl := Host.Outcome.next.inj h
      exact s.branchIf_ip_of (·.extractLsb' 13 3 = s.page) _ _ _ (s.relAddress_page op hp) rfl
    case bstr m op | bsfr m op | bsnr m op =>
      obtain rfl := Host.Outcome.next.inj h
      exact s.callIf_ip_of (·.extractLsb' 13 3 = s.page) _ _ _ (s.relAddress_page op hp) rfl
    case birr r op | bdrr r op =>
      obtain rfl := Host.Outcome.next.inj h
      refine State.branchIf_ip_of (·.extractLsb' 13 3 = s.page) _ _ _ _ ?_ (s.setReg_page r _)
      exact (State.relAddress_page _ op hp).trans (s.setReg_page r _)
    all_goals exact absurd (hi.symm.trans hp) (by decide)
  · have hip : t.ip = s.ip := (exec_frame i s t h).ip_kept (by simpa [mayChange_ip] using hi)
    exact congrArg (BitVec.extractLsb' 13 3) hip

/-- The direct absolute branches stay in the half of memory the instruction is in (R26, R115, R116, D9). -/
theorem exec_ip_bit15 (i : Instr) (s t : State) (h : exec i s = .next t) (hi : isDirectAbsoluteBranch i = true) :
    t.ip.getLsbD 15 = s.ip.getLsbD 15 := by
  cases i
  case bcta m op | bcfa m op | brna m op =>
    obtain rfl := Host.Outcome.next.inj h
    exact s.branchIf_ip_of (·.getLsbD 15 = s.ip.getLsbD 15) _ _ _
      (s.branchAddress_bit15 op ((Bool.not_eq_true' _).mp hi)) rfl
  case bsta m op | bsfa m op | bsna m op =>
    obtain rfl := Host.Outcome.next.inj h
    exact s.callIf_ip_of (·.getLsbD 15 = s.ip.getLsbD 15) _ _ _
      (s.branchAddress_bit15 op ((Bool.not_eq_true' _).mp hi)) rfl
  case bira r op | bdra r op =>
    obtain rfl := Host.Outcome.next.inj h
    have hip : ∀ v, (s.setReg r v).ip.getLsbD 15 = s.ip.getLsbD 15 := fun v => by rw [s.setReg_ip r v]
    refine State.branchIf_ip_of (·.getLsbD 15 = s.ip.getLsbD 15) _ _ _ _ ?_ (hip _)
    exact (State.branchAddress_bit15 _ op ((Bool.not_eq_true' _).mp hi)).trans (hip _)
  case bxa op =>
    obtain rfl := Host.Outcome.next.inj h
    exact s.indexedBranchAddress_bit15 op ((Bool.not_eq_true' _).mp hi)
  case bsxa op =>
    obtain rfl := Host.Outcome.next.inj h
    exact s.indexedBranchAddress_bit15 op ((Bool.not_eq_true' _).mp hi)
  all_goals exact nomatch hi

/-- Settles O12. -/
theorem pageControlWriters : Obligations.PageControlWriters := by
  refine ⟨fetchInstr_page, fun i s t h => ⟨fun hi => ?_, exec_page i s t h, exec_ip_bit15 i s t h, fun op hop hi => ?_⟩⟩
  · exact (exec_frame i s t h).ip_kept ((mayChange_ip i s).trans hi)
  · obtain rfl | rfl := hi
    all_goals
      obtain rfl := Host.Outcome.next.inj h
      exact s.zeroAddress_page op hop

/-! ## The Condition Code (R40, R41) -/

@[simp] theorem State.loadReg_cc (s : State) (r : Reg) (v : Byte) : (s.loadReg r v).cc = ccOf v := State.setCC_cc _ _

@[simp] theorem State.arithReg_cc (s : State) (r : Reg) (x : AluResult) : (s.arithReg r x).cc = ccOf x.value :=
  State.setCC_cc _ _

@[simp] theorem State.rotateReg_cc (s : State) (r : Reg) (v : Byte) (c idc : Bool) : (s.rotateReg r v c idc).cc = ccOf v :=
  State.setCC_cc _ _

theorem ccOf16_ne (p : Word) : ccOf16 p ≠ 3#2 := by
  unfold ccOf16
  split_ifs <;> decide

/-- CC = 11 is both of its bits. -/
theorem State.cc_eleven_iff (s : State) : s.cc = 3#2 ↔ s.psl.getLsbD 6 = true ∧ s.psl.getLsbD 7 = true := by
  unfold State.cc
  generalize s.psl = p
  revert p
  decide

/-- What an instruction can do to CC: keep it, or set it to 00, 01 or 10; or it is a PSL instruction (R41). -/
theorem exec_cc (i : Instr) (s t : State) (h : exec i s = .next t) :
    t.cc = s.cc ∨ t.cc ≠ 3#2 ∨ isPslWriter i = true := by
  cases i
  case lpsl | cpsl | ppsl | pops => exact .inr (.inr rfl)
  case lodz | lodi | lodr | loda | eorz | eori | eorr | eora | andz | andi | andr | anda | iorz | iori | iorr | iora | strz
      | redc | redd | rede | spsu | spsl | lodf | ldfi =>
    obtain rfl := Host.Outcome.next.inj h
    exact .inr (.inl (by rw [State.loadReg_cc]; exact ccOf_ne _))
  case addz | addi | addr | adda | subz | subi | subr | suba =>
    obtain rfl := Host.Outcome.next.inj h
    exact .inr (.inl (by rw [State.arithReg_cc]; exact ccOf_ne _))
  case rrr | rrl =>
    obtain rfl := Host.Outcome.next.inj h
    exact .inr (.inl (by rw [State.rotateReg_cc]; exact ccOf_ne _))
  case comz | comi | comr | coma =>
    obtain rfl := Host.Outcome.next.inj h
    exact .inr (.inl (by rw [State.setCC_cc]; exact compareCC_ne _ _ _))
  case tpsu | tpsl | tmi =>
    obtain rfl := Host.Outcome.next.inj h
    exact .inr (.inl (by rw [State.setCC_cc]; exact testCC_ne _ _))
  case mul =>
    obtain rfl := Host.Outcome.next.inj h
    exact .inr (.inl (by rw [State.setCC_cc]; exact ccOf16_ne _))
  all_goals exact .inl ((exec_frame _ s t h).cc_kept List.not_mem_nil List.not_mem_nil)

/-- Bits cleared under a mask: `cpsl` leaves CC = 11 only where it was 11. -/
theorem exec_cpsl_cc_eleven (mask : Byte) (s t : State) (h : exec (.cpsl mask) s = .next t) (ht : t.cc = 3#2) :
    s.cc = 3#2 := by
  obtain rfl := Host.Outcome.next.inj h
  rw [State.cc_eleven_iff, State.setPsl_psl, BitVec.getLsbD_and, BitVec.getLsbD_and, Bool.and_eq_true,
    Bool.and_eq_true] at ht
  obtain ⟨⟨h6, _⟩, h7, _⟩ := ht
  exact s.cc_eleven_iff.mpr ⟨h6, h7⟩

/-- No instruction generates CC = 11; only `lpsl`, `ppsl` and `pops` can place it there (R41). -/
theorem exec_cc_eleven (i : Instr) (s t : State) (h : exec i s = .next t) (ht : t.cc = 3#2) :
    s.cc = 3#2 ∨ i = .lpsl ∨ (∃ mask, i = .ppsl mask) ∨ i = .pops := by
  obtain hs | hne | hw := exec_cc i s t h
  · exact .inl (hs.symm.trans ht)
  · exact absurd ht hne
  · cases i
    case lpsl => exact .inr (.inl rfl)
    case ppsl mask => exact .inr (.inr (.inl ⟨mask, rfl⟩))
    case pops => exact .inr (.inr (.inr rfl))
    case cpsl mask => exact .inl (exec_cpsl_cc_eleven mask s t h ht)
    all_goals exact nomatch hw

/-! ## Branch conditions -/

theorem State.branchIf_taken {s : State} {c : Bool} (h : c = true) (a : Word) (reads : List Transaction) :
    s.branchIf c a reads = (s.record reads).setIp a :=
  if_pos h

theorem State.branchIf_not_taken {s : State} {c : Bool} (h : c = false) (a : Word) (reads : List Transaction) :
    s.branchIf c a reads = s :=
  if_neg (Bool.eq_false_iff.mp h)

theorem State.callIf_taken {s : State} {c : Bool} (h : c = true) (a : Word) (reads : List Transaction) :
    s.callIf c a reads = ((s.record reads).push16 s.ip).setIp a :=
  if_pos h

theorem State.callIf_not_taken {s : State} {c : Bool} (h : c = false) (a : Word) (reads : List Transaction) :
    s.callIf c a reads = s :=
  if_neg (Bool.eq_false_iff.mp h)

theorem State.condTrue_un (s : State) : s.condTrue .un = true := rfl

/-- No condition mask but `un` has the bits 11 (R111). -/
theorem Cond.bits_ne_eleven {m : Cond} (h : m ≠ .un) : m.bits ≠ 3#2 :=
  fun e => h ((Cond.bits_inj m .un).mp e)

theorem State.condTrue_of_cc_eleven {s : State} {m : Cond} (hs : s.cc = 3#2) (hm : m ≠ .un) : s.condTrue m = false := by
  rw [Bool.eq_false_iff, ne_eq, State.condTrue_iff]
  rintro (h | h)
  · exact hm h
  · exact Cond.bits_ne_eleven hm (h.symm.trans hs)

theorem State.condFalse_of_cc_eleven {s : State} {m : Cond} (hs : s.cc = 3#2) (hm : m ≠ .un) : s.condFalse m = true :=
  s.condFalse_iff m |>.mpr fun h => Cond.bits_ne_eleven hm (h.symm.trans hs)

theorem State.branchIf_taken_nil {s : State} {c : Bool} (h : c = true) (a : Word) : s.branchIf c a [] = s.setIp a := by
  rw [State.branchIf_taken h, State.record_nil]

theorem State.callIf_taken_nil {s : State} {c : Bool} (h : c = true) (a : Word) :
    s.callIf c a [] = (s.push16 s.ip).setIp a := by
  rw [State.callIf_taken h, State.record_nil]

theorem next_congr {u v : State} (h : u = v) : (.next u : Result) = .next v := congrArg Host.Outcome.next h

/-- Settles O15: the three that can place 11 are shown doing so from CC = 00, and with CC = 11 `condTrue` holds of `un`
alone and `condFalse` of every other mask. -/
theorem conditionCodeEleven : Obligations.ConditionCodeEleven := by
  refine ⟨exec_cc_eleven, ?_, ?_, ?_, fun s m rop bop a hs => ⟨fun hm => ?_, ?_, fun hm => ?_⟩⟩
  · exact ⟨{ State.reset with r0 := 0xC0#8 }, _, by decide, rfl, by decide⟩
  · exact ⟨State.reset, _, by decide, rfl, by decide⟩
  · exact ⟨{ State.reset with stack := Vector.replicate 16 0x00C0#16 }, _, by decide, rfl, by decide⟩
  · have hc := State.condTrue_of_cc_eleven hs hm
    have hbranch := fun a reads => next_congr (State.branchIf_not_taken (s := s) hc a reads)
    have hcall := fun a reads => next_congr (State.callIf_not_taken (s := s) hc a reads)
    have hreturn : ∀ u, (if s.condTrue m then u else s) = s := fun u => if_neg (Bool.eq_false_iff.mp hc)
    exact ⟨hbranch _ _, hbranch _ _, hbranch _ _, hcall _ _, hcall _ _, hcall _ _, next_congr (hreturn _),
      next_congr (hreturn _)⟩
  · have hc := s.condTrue_un
    exact ⟨next_congr (State.branchIf_taken hc _ _), next_congr (State.branchIf_taken hc _ _),
      next_congr (State.branchIf_taken_nil hc _), next_congr (State.callIf_taken hc _ _),
      next_congr (State.callIf_taken hc _ _), next_congr (State.callIf_taken_nil hc _), rfl, rfl⟩
  · have hc := State.condFalse_of_cc_eleven hs hm
    exact ⟨next_congr (State.branchIf_taken hc _ _), next_congr (State.branchIf_taken hc _ _),
      next_congr (State.branchIf_taken_nil hc _), next_congr (State.callIf_taken hc _ _),
      next_congr (State.callIf_taken hc _ _), next_congr (State.callIf_taken_nil hc _)⟩

/-- What a state becomes under a condition mask (R127), in the two cases. -/
theorem State.ite_condTrue (s u : State) (m : Cond) :
    (Holds m s → (if s.condTrue m then u else s) = u) ∧ (¬ Holds m s → (if s.condTrue m then u else s) = s) :=
  ⟨fun hm => if_pos (s.condTrue_iff m |>.mpr hm), fun hm => if_neg (mt (s.condTrue_iff m).mp hm)⟩

/-- Settles O50: a return whose condition holds is `returnFrom`, and otherwise the state is left as it is. -/
theorem returns : Obligations.Returns := by
  intro s m
  refine ⟨⟨_, rfl, fun hm => ?_, (s.ite_condTrue _ m).2⟩, ⟨_, rfl, fun hm => ?_, (s.ite_condTrue _ m).2⟩⟩
  · rw [(s.ite_condTrue _ m).1 hm]
    obtain ⟨hip, hsp, _, _, hframe⟩ := s.returnFrom_spec false
    exact ⟨hip, hsp, hframe⟩
  · rw [(s.ite_condTrue _ m).1 hm]
    obtain ⟨hip, hsp, hii, _, hframe⟩ := s.returnFrom_spec true
    exact ⟨hip, hsp, hii rfl, hframe⟩

/-! ## Registers and their banks (R21) -/

/-- `x[r]` after a write of PSL: the register of the bank the new RS selects. -/
theorem State.setPsl_reg (s : State) (psl : Byte) (r : Reg) : (s.setPsl psl).reg r = s.phys (physOf (psl.getLsbD 4) r) :=
  s.setPsl_phys psl _

/-- The two banks share R0 and nothing else. -/
theorem physOf_ne_of_banks {b c : Bool} (h : b ≠ c) (q : Reg) {r : Reg} (hr : r ≠ .r0) : physOf b q ≠ physOf c r := by
  revert h hr
  cases b <;> cases c <;> cases q <;> cases r <;> decide

/-- Settles O17. -/
theorem registerBanks : Obligations.RegisterBanks := by
  intro s r v
  refine ⟨?_, fun q hq => ?_, s.setReg_frame r v, fun psl hpsl => ⟨rfl, fun hr q => ?_⟩, fun psl h => ?_, fun psl h => ?_⟩
  · rw [State.setReg_reg, if_pos rfl]
  · rw [State.setReg_reg, if_neg hq]
  · rw [State.setPsl_reg, State.setPsl_reg, State.setReg_phys, if_neg (physOf_ne_of_banks hpsl q hr)]
  · simp only [State.setPsl_reg, h]
    exact ⟨rfl, rfl, rfl⟩
  · simp only [State.setPsl_reg, h]
    exact ⟨rfl, rfl, rfl⟩

/-! ## The internal stack (R28) -/

theorem State.push16_sp (s : State) (v : Word) : (s.push16 v).sp = s.sp + 1#4 := State.setSp_sp _ _

@[simp] theorem State.dropTop_sp (s : State) : s.dropTop.sp = s.sp - 1#4 := State.setSp_sp _ _

@[simp] theorem State.dropTop_stackAt (s : State) (k : BitVec 4) : s.dropTop.stackAt k = s.stackAt k := rfl

/-- One entry on from the entry after a base. -/
theorem entry_succ (b : BitVec 4) (n : Nat) : b + 1#4 + BitVec.ofNat 4 n = b + BitVec.ofNat 4 (n + 1) := by
  bv_omega

theorem pushAll_sp (words : List Word) (s : State) : (pushAll words s).sp = s.sp + BitVec.ofNat 4 words.length := by
  induction words generalizing s with
  | nil => simp [pushAll]
  | cons w ws ih => rw [pushAll, ih, State.push16_sp, entry_succ, List.length_cons]

/-- An entry that no push reaches keeps its word. -/
theorem pushAll_stackAt_of_not_reached (words : List Word) (s : State) (k : BitVec 4)
    (hk : ∀ n, n < words.length → k ≠ s.sp + BitVec.ofNat 4 n) : (pushAll words s).stackAt k = s.stackAt k := by
  induction words generalizing s with
  | nil => rfl
  | cons w ws ih =>
    have hw : k ≠ s.sp := by simpa using hk 0 (Nat.zero_lt_succ _)
    rw [pushAll, ih, State.push16_stackAt, if_neg hw]
    intro n hn
    rw [State.push16_sp, entry_succ]
    exact hk (n + 1) (Nat.succ_lt_succ hn)

/-- Up to 16 words pushed stand one after the other from the entry SP pointed to. -/
theorem pushAll_stackAt (words : List Word) (s : State) (h16 : words.length ≤ 16) (n : Nat) (hn : n < words.length) :
    (pushAll words s).stackAt (s.sp + BitVec.ofNat 4 n) = words[n] := by
  induction words generalizing s n with
  | nil => exact absurd hn (Nat.not_lt_zero n)
  | cons w ws ih =>
    rw [List.length_cons] at h16 hn
    cases n with
    | zero =>
      rw [pushAll, pushAll_stackAt_of_not_reached, State.push16_stackAt, if_pos (by simp)]
      · rfl
      · intro j hj
        rw [State.push16_sp]
        bv_omega
    | succ n =>
      rw [pushAll, ← entry_succ, ← s.push16_sp w, ih (s.push16 w) (by omega) n (by omega)]
      rfl

theorem popAll_sp (n : Nat) (s : State) : (popAll n s).2.sp = s.sp - BitVec.ofNat 4 n := by
  induction n generalizing s with
  | zero => simp [popAll]
  | succ n ih =>
    rw [popAll, ih, State.dropTop_sp]
    bv_omega

theorem popAll_length (n : Nat) (s : State) : (popAll n s).1.length = n := by
  induction n generalizing s with
  | zero => rfl
  | succ n ih => rw [popAll, List.length_cons, ih]

/-- The words popped are those of the entries below SP, the nearest first. -/
theorem popAll_getElem (n : Nat) (s : State) (j : Nat) (hj : j < (popAll n s).1.length) :
    (popAll n s).1[j] = s.stackAt (s.sp - BitVec.ofNat 4 (j + 1)) := by
  induction n generalizing s j with
  | zero => exact absurd hj (Nat.not_lt_zero j)
  | succ n ih =>
    cases j with
    | zero => rfl
    | succ j =>
      refine (ih s.dropTop j (Nat.lt_of_succ_lt_succ hj)).trans ?_
      have hk : s.sp - 1#4 - BitVec.ofNat 4 (j + 1) = s.sp - BitVec.ofNat 4 (j + 1 + 1) := by bv_omega
      rw [State.dropTop_stackAt, State.dropTop_sp, hk]

/-- Settles O24: the words pushed stand from the entry SP pointed to upwards, and popping reads them downwards. -/
theorem stackLastInFirstOut : Obligations.StackLastInFirstOut := by
  intro s words h16
  refine ⟨?_, ?_, fun hlen w => ?_⟩
  · refine List.ext_getElem (by rw [popAll_length, List.length_reverse]) fun j hj hr => ?_
    have hlt : j < words.length := by rwa [List.length_reverse] at hr
    have hk : s.sp + BitVec.ofNat 4 words.length - BitVec.ofNat 4 (j + 1) =
        s.sp + BitVec.ofNat 4 (words.length - 1 - j) := by bv_omega
    rw [popAll_getElem, pushAll_sp, hk, List.getElem_reverse, pushAll_stackAt words s h16]
  · rw [popAll_sp, pushAll_sp, BitVec.add_sub_cancel]
  · have hsp : (pushAll words s).sp = s.sp := by
      rw [pushAll_sp, hlen]
      exact BitVec.add_zero _
    rw [State.push16_stackAt, if_pos hsp.symm]

/-- R1:R0 as one word, taken apart and put together (R260, R261). -/
theorem word_of_bytes (v : Word) : 256 * (v.extractLsb' 8 8).toNat + (v.extractLsb' 0 8).toNat = v.toNat := by
  have h := byte_append_toNat (v.extractLsb' 8 8) (v.extractLsb' 0 8)
  rw [extract_append (m := 8) (n := 8) v] at h
  omega

/-- Settles O57. -/
theorem pushAndPop : Obligations.PushAndPop := by
  intro s
  refine ⟨⟨_, rfl, ?_⟩, ⟨_, rfl, ?_, ?_, frame_pop s _ rfl⟩⟩
  · obtain ⟨hentry, hsp, hframe⟩ := s.push16_spec (s.reg .r1 ++ s.reg .r0)
    refine ⟨?_, hsp, hframe⟩
    rw [hentry, byte_append_toNat, Nat.mul_comm]
  · obtain ⟨hhigh, hlow, _⟩ := s.dropTop.setPair_spec (s.topOfStack.extractLsb' 0 8) (s.topOfStack.extractLsb' 8 8)
    rw [hhigh, hlow]
    exact word_of_bytes s.topOfStack
  · rw [State.setReg_sp, State.setReg_sp, State.dropTop_sp]

/-! ## Program Status Upper (R27, R31) -/

/-- A test under mask, as the instructions that test write it (R239, R240, R242). -/
theorem State.setCC_tests (s : State) (v mask : Byte) : Tests v mask s (s.setCC (testCC v mask)) := by
  unfold Tests
  rw [State.setCC_cc]
  obtain ⟨hcc, hall⟩ | ⟨hcc, k, hk, hm, hv⟩ := testCC_spec v mask
  · refine ⟨fun _ => hcc, fun ⟨k, hk, hm, hv⟩ => ?_, s.setCC_frame _⟩
    exact absurd ((hall k hk hm).symm.trans hv) (by decide)
  · refine ⟨fun hall => ?_, fun _ => hcc, s.setCC_frame _⟩
    exact absurd ((hall k hk hm).symm.trans hv) (by decide)

/-- The mask 80h tests bit 7 alone. -/
theorem testCC_bit7 (v : Byte) : testCC v 0x80#8 = if v.getLsbD 7 then 0#2 else 2#2 := by
  revert v
  decide

/-- Settles O53. -/
theorem psuReads : Obligations.PsuReads := by
  intro s mask
  refine ⟨s.psuRead_sense, s.psuRead_stored, ⟨_, rfl, s.loadReg_loads .r0 _⟩, ⟨_, rfl, s.setCC_tests _ _⟩, ⟨_, rfl, ?_⟩⟩
  refine (State.setCC_cc _ _).trans ?_
  rw [testCC_bit7, s.psuRead_sense]

/-- What a write of PSU stores: bits 6:0 of the value, and nothing in bit 7 (R31, D12). -/
theorem State.setPsu_spec (s : State) (v : Byte) :
    (∀ k, k < 7 → (s.setPsu v).psu.getLsbD k = v.getLsbD k) ∧ (s.setPsu v).psu.getLsbD 7 = false ∧
      Frame { psu := [7, 6, 5, 4, 3, 2, 1, 0] } s (s.setPsu v) := by
  refine ⟨fun k hk => ?_, s.setPsu_bit7 v, s.setPsu_frame v⟩
  rw [State.setPsu_psu, setPsu_getLsbD v k (by omega), decide_eq_true (by omega), Bool.true_and]

/-- Settles O55. -/
theorem psuWriters : Obligations.PsuWriters := by
  intro s mask
  refine ⟨⟨_, rfl, s.setPsu_spec s.r0⟩, ⟨_, rfl, ?_⟩, ⟨_, rfl, ?_⟩⟩
  · obtain ⟨hbits, h7, hframe⟩ := s.setPsu_spec (s.psu &&& ~~~mask)
    refine ⟨fun k hk => ?_, h7, hframe⟩
    rw [hbits k hk, BitVec.getLsbD_and, BitVec.getLsbD_not, decide_eq_true (by omega), Bool.true_and]
  · obtain ⟨hbits, h7, hframe⟩ := s.setPsu_spec (s.psu ||| mask)
    refine ⟨fun k hk => ?_, h7, hframe⟩
    rw [hbits k hk, BitVec.getLsbD_or]

end Sys2Proof.Machine

/-! SUPPORT. What memory, its reads and the interrupt entry do (spec/20_memory.md R60 to R76, spec/60_exceptions.md R306):
reads after writes, the canonical form, pointers, stores, and the fetch of an instruction's own bytes (spec/30_encoding.md
R100 to R109). -/

namespace Sys2Proof

/-! ## An instruction's own bytes (R100 to R109) -/

/-- The operand bytes of each format, read back by the cell they belong to (R105 to R108). -/
theorem Entry.build_rel (f : RelOperand → Instr) (op : RelOperand) (rest : List Byte) :
    (Entry.rel f).build (op.toByte :: rest) = .ok (f op, rest) := by
  rw [Entry.build, RelOperand.ofByte_toByte]

theorem Entry.build_abs (f : AbsOperand → Instr) (op : AbsOperand) (rest : List Byte) :
    (Entry.abs f).build (op.highByte :: op.lowByte :: rest) = .ok (f op, rest) := by
  rw [Entry.build, AbsOperand.ofBytes_bytes]

theorem Entry.build_branch (f : BranchOperand → Instr) (op : BranchOperand) (rest : List Byte) :
    (Entry.branch f).build (op.highByte :: op.lowByte :: rest) = .ok (f op, rest) := by
  rw [Entry.build, BranchOperand.ofBytes_bytes]

theorem Entry.build_far (f : Word → Instr) (a : Word) (rest : List Byte) :
    (Entry.far f).build (farHigh a :: farLow a :: rest) = .ok (f a, rest) := by
  rw [Entry.build, farAddress_bytes]

/-- A cell that is complete without operand bytes takes none of the bytes after it. -/
theorem Entry.build_of_nil {e : Entry} {i : Instr} (h : e.build [] = .ok (i, [])) (rest : List Byte) :
    e.build rest = .ok (i, rest) := by
  cases e
  case one j =>
    obtain rfl : j = i := congrArg Prod.fst (Except.ok.inj h)
    rfl
  all_goals exact nomatch h

/-- The blank cells of the extended map hold the reserved encodings (R121, R122). -/
theorem extEntry_blank (op : Byte) (h : isBlankExtended op = true) :
    (extEntry op).build [] = .ok (.reservedExtended op, []) := by
  revert op
  decide

/-- The opcode byte of the base map selects its cell (R120). -/
theorem decode_base {b : Byte} (h : b ≠ extPrefix) (rest : List Byte) : decode (b :: rest) = (baseEntry b).build rest :=
  if_neg h

/-- After B7h the next byte selects a cell of the extended map (R109, R121). -/
theorem decode_ext (b : Byte) (rest : List Byte) : decode (extPrefix :: b :: rest) = (extEntry b).build rest := rfl

/-- Decoding an instruction's bytes gives it back, whatever bytes follow: its opcode byte selects its cell, and the cell's
format reads its operand back. -/
theorem decode_encode_append (i : Instr) (rest : List Byte) (h : WellFormed i) :
    decode (encode i ++ rest) = .ok (i, rest) := by
  cases i
  case lodz r | lodi r imm | eorz r | eori r imm | andi r imm | iorz r | iori r imm | addz r | addi r imm | subz r
      | subi r imm | comz r | comi r imm | rrr r | rrl r | dar r | wrtc r | wrtd r | redc r | redd r | wrte r a | rede r a
      | tmi r mask | clr r | cpl r =>
    cases r <;> rfl
  case retc m | rete m => cases m <;> rfl
  case andz r | strz r =>
    cases r
    case r0 => exact nomatch h
    all_goals rfl
  case lodr r op | eorr r op | andr r op | iorr r op | addr r op | subr r op | strr r op | comr r op | brnr r op | bsnr r op
      | birr r op | bdrr r op =>
    cases r <;> exact Entry.build_rel _ op rest
  case bctr m op | bstr m op => cases m <;> exact Entry.build_rel _ op rest
  case bcfr m op | bsfr m op =>
    cases m
    case un => exact nomatch h
    all_goals exact Entry.build_rel _ op rest
  case zbrr op | zbsr op => exact Entry.build_rel _ op rest
  case loda r op | eora r op | anda r op | iora r op | adda r op | suba r op | stra r op | coma r op =>
    cases r <;> exact Entry.build_abs _ op rest
  case brna r op | bsna r op | bira r op | bdra r op => cases r <;> exact Entry.build_branch _ op rest
  case bcta m op | bsta m op => cases m <;> exact Entry.build_branch _ op rest
  case bcfa m op | bsfa m op =>
    cases m
    case un => exact nomatch h
    all_goals exact Entry.build_branch _ op rest
  case bxa op | bsxa op => exact Entry.build_branch _ op rest
  case lodf r a | ldfi r a | strf r a | stfi r a | brnf r a | bsnf r a | birf r a | bdrf r a =>
    cases r <;> exact Entry.build_far _ a rest
  case bctf m a | bstf m a => cases m <;> exact Entry.build_far _ a rest
  case bcff m a | bsff m a =>
    cases m
    case un => exact nomatch h
    all_goals exact Entry.build_far _ a rest
  case bxf a | bsxf a => exact Entry.build_far _ a rest
  case reservedExtended op => exact Entry.build_of_nil (extEntry_blank op h) rest
  case extdPrefix => exact nomatch h
  all_goals rfl

end Sys2Proof

namespace Sys2Proof.Machine

/-! ## Reads of memory (R65, R71) -/

/-- No frame names the memory map: what the platform has at an address stays (R65). -/
theorem Frame.mapKind_kept {c : MayChange} {s t : State} (h : Frame c s t) (a : Word) : t.mapKind a = s.mapKind a := by
  obtain ⟨_, hmap⟩ := h.platform_kept
  rw [State.mapKind, hmap, State.mapKind]

/-- A read depends on the map, the counter of the free values and the byte at its own address: what keeps these keeps it. -/
theorem Frame.memRead_kept {c : MayChange} {s t : State} (h : Frame c s t) {a : Word} (ha : a ∉ c.mem) (k : MemAccess) :
    t.memRead k a = s.memRead k a := by
  have hkind := h.mapKind_kept a
  obtain ⟨_, _, _, _, _, _, _, _, hbyte, _, _, _, hdraws⟩ := h
  have hheld := hbyte a ha
  rw [State.byteAt, State.byteAt] at hheld
  rw [State.memRead, State.memRead, hkind, hheld, hdraws]

/-- MemWrite leaves every read at another address as it was (R65, R71). -/
theorem State.memWrite_memRead_of_ne (s : State) {a b : Word} (v : Byte) (k : MemAccess) (h : b ≠ a) :
    (s.memWrite a v).memRead k b = s.memRead k b :=
  (s.memWrite_frame a v).memRead_kept (mt List.mem_singleton.mp h) k

/-- MemWrite where nothing takes the byte (R65). -/
theorem State.memWrite_ignored (s : State) (a : Word) (v : Byte) (h : s.mapKind a = some .rom ∨ s.mapKind a = none) :
    s.memWrite a v = s := by
  unfold State.memWrite
  obtain h | h := h <;> rw [h]

/-- MemWrite at a device hands the byte over (R65). -/
theorem State.memWrite_device (s : State) (a : Word) (v : Byte) (h : s.mapKind a = some .device) :
    s.memWrite a v = s.record [.deviceWrite a v] := by
  unfold State.memWrite
  rw [h]
  rfl

/-- Settles O18: one law of MemWrite for each kind of address, and its frame for every other address. -/
theorem memoryReadAfterWrite : Obligations.MemoryReadAfterWrite := fun s a v =>
  ⟨fun h k => s.memWrite_memRead_self a v k h, s.memWrite_ignored a v, s.memWrite_device a v,
    fun _ k h => s.memWrite_memRead_of_ne v k h⟩

/-! ## The canonical form of memory (R60) -/

theorem Memory.risingFrom_cons_iff (low k : Nat) (v : Byte) (m : List Host.Cell) :
    Memory.risingFrom low ((k, v) :: m) = true ↔ low ≤ k ∧ k < 65536 ∧ Memory.risingFrom (k + 1) m = true := by
  simp [Memory.risingFrom, and_assoc]

theorem Memory.get?_cons_self (k : Nat) (v : Byte) (m : List Host.Cell) : Memory.get? ((k, v) :: m) k = some v :=
  if_pos rfl

theorem Memory.get?_cons_of_ne {k a : Nat} (h : a ≠ k) (v : Byte) (m : List Host.Cell) :
    Memory.get? ((k, v) :: m) a = Memory.get? m a :=
  if_neg h.symm

/-- A canonical list holds nothing below its lower bound. -/
theorem Memory.get?_of_lt {low a : Nat} {m : List Host.Cell} (hm : Memory.risingFrom low m = true) (ha : a < low) :
    Memory.get? m a = none := by
  induction m generalizing low with
  | nil => rfl
  | cons c m ih =>
    obtain ⟨k, v⟩ := c
    obtain ⟨hlow, _, hrest⟩ := (Memory.risingFrom_cons_iff low k v m).mp hm
    rw [Memory.get?_cons_of_ne (by omega)]
    exact ih hrest (by omega)

/-- The first address of a canonical list is the least one that holds a byte. -/
theorem Memory.head_le {low k a : Nat} {v w : Byte} {m : List Host.Cell}
    (hm : Memory.risingFrom low ((k, v) :: m) = true) (ha : Memory.get? ((k, v) :: m) a = some w) : k ≤ a := by
  obtain ⟨_, hk, hrest⟩ := (Memory.risingFrom_cons_iff low k v m).mp hm
  have hfrom : Memory.risingFrom k ((k, v) :: m) = true :=
    (Memory.risingFrom_cons_iff k k v m).mpr ⟨Nat.le_refl k, hk, hrest⟩
  by_contra hlt
  rw [Memory.get?_of_lt hfrom (by omega)] at ha
  exact nomatch ha

/-- A canonical list is determined by what it holds: its head is the least address that holds a byte, and the tail is
determined in the same way. -/
theorem Memory.eq_of_get?_eq {low : Nat} {m n : List Host.Cell} (hm : Memory.risingFrom low m = true)
    (hn : Memory.risingFrom low n = true) (h : ∀ a, a < 65536 → Memory.get? m a = Memory.get? n a) : m = n := by
  induction m generalizing low n with
  | nil =>
    cases n with
    | nil => rfl
    | cons d n =>
      obtain ⟨j, w⟩ := d
      obtain ⟨_, hj, _⟩ := (Memory.risingFrom_cons_iff low j w n).mp hn
      exact nomatch (h j hj).trans (Memory.get?_cons_self j w n)
  | cons c m ih =>
    obtain ⟨k, v⟩ := c
    obtain ⟨_, hk, hmrest⟩ := (Memory.risingFrom_cons_iff low k v m).mp hm
    have hheld : Memory.get? n k = some v := (h k hk).symm.trans (Memory.get?_cons_self k v m)
    cases n with
    | nil => exact nomatch hheld
    | cons d n =>
      obtain ⟨j, w⟩ := d
      obtain ⟨_, hj, hnrest⟩ := (Memory.risingFrom_cons_iff low j w n).mp hn
      obtain rfl : j = k := Nat.le_antisymm (Memory.head_le hn hheld)
        (Memory.head_le hm ((h j hj).trans (Memory.get?_cons_self j w n)))
      obtain rfl : w = v := Option.some.inj ((Memory.get?_cons_self j w n).symm.trans hheld)
      have htails : ∀ a, a < 65536 → Memory.get? m a = Memory.get? n a := by
        intro a ha
        by_cases haj : a = j
        · rw [Memory.get?_of_lt hmrest (by omega), Memory.get?_of_lt hnrest (by omega)]
        · rw [← Memory.get?_cons_of_ne haj w m, ← Memory.get?_cons_of_ne haj w n]
          exact h a ha
      rw [ih hmrest hnrest htails]

/-- Settles O19: a 16-bit address reaches every address a canonical list may hold. -/
theorem canonicalMemoriesEqual : Obligations.CanonicalMemoriesEqual := by
  intro m n hm hn h
  refine Memory.eq_of_get?_eq hm hn fun a ha => ?_
  have hword := h (BitVec.ofNat 16 a)
  rwa [BitVec.toNat_ofNat, Nat.mod_eq_of_lt ha] at hword

/-! ## Pointers (R62, R118) -/

/-- Settles O20: the second write leaves the first byte, because the pointer's two addresses differ. -/
theorem pointersBigEndian : Obligations.PointersBigEndian := by
  intro s a hi lo kind
  refine ⟨fun ha hsecond => ?_, nextInPage_toNat a, BitVec.toNat_add a 1#16⟩
  have hhigh : ((s.memWrite a hi).memWrite (pointerSecond kind a) lo).memRead .pointerHigh a = hi := by
    rw [State.memWrite_memRead_of_ne _ _ _ (pointerSecond_ne kind a).symm, s.memWrite_memRead_self a hi _ ha]
  have hlow : ((s.memWrite a hi).memWrite (pointerSecond kind a) lo).memRead .pointerLow (pointerSecond kind a) = lo :=
    (s.memWrite a hi).memWrite_memRead_self _ lo _ ((s.memWrite_mapKind a hi _).trans hsecond)
  rw [State.ptr16, hhigh, hlow]

/-! ## Which reads are made (R67, R76, R118) -/

theorem State.memReads_of_not_device {s : State} {a : Word} (h : s.mapKind a ≠ some .device) (k : MemAccess) :
    s.memReads k a = [] := by
  obtain ⟨hdevice, _⟩ | ⟨_, hnil⟩ := s.memReads_spec k a
  · exact absurd hdevice h
  · exact hnil

theorem State.memReads_of_device {s : State} {a : Word} (h : s.mapKind a = some .device) (k : MemAccess) :
    s.memReads k a = [.deviceRead a (s.memRead k a)] := by
  obtain ⟨_, hone⟩ | ⟨hne, _⟩ := s.memReads_spec k a
  · exact hone
  · exact absurd h hne

/-- Without indirection and without an index, the absolute address is the one in the instruction (R114). -/
theorem State.absAddress_direct (s : State) (r : Reg) (a : BitVec 13) :
    s.absAddress r ⟨false, .none, a⟩ = s.inPage a :=
  congrArg s.inPage (BitVec.add_zero a)

/-- Settles O60: a direct operand names the address its indirect form reads the pointer at. -/
theorem deviceReads : Obligations.DeviceReads := by
  intro s k a kind r rop op bop src reads
  refine ⟨fun h => State.memReads_of_device h k, fun h => State.memReads_of_not_device h k, rfl, rfl, rfl, ?_, rfl, rfl, rfl,
    rfl, rfl, rfl, s.record_frame reads⟩
  rw [s.absAddress_direct]
  rfl

/-! ## Interrupt entry (R306) -/

/-- An interrupt whose target is read from no device records nothing (R76). -/
theorem State.vectorReads_of_no_device {s : State} {src : IrqSource}
    (h : ∀ a ∈ Config.irqVector s.ivb src, s.mapKind a ≠ some .device) : s.vectorReads src = [] :=
  List.flatMap_eq_nil_iff.mpr fun _ hp => State.memReads_of_not_device (h _ (List.fst_mem_of_mem_zipIdx hp)) _

/-- Settles O27: the step is the entry, whose own frame begins after the reads of its target are recorded. -/
theorem interruptEntry : Obligations.InterruptEntry := by
  intro s src hdue
  obtain ⟨hstack, hsp, hii, hhalted, hip, htrace, hframe⟩ := s.enterInterrupt_spec src
  have hentry : Frame { stack := [s.sp], psu := 5 :: spBits, ip := true, halted := true, trace := true } s
      (s.enterInterrupt src) :=
    ((s.record_frame _).trans hframe).mono (by simp [MayChange.within, MayChange.and])
  refine ⟨_, step_due s src hdue, hstack, hsp, hii, hhalted, hip, htrace, fun hnone => ?_, hentry.trapp_kept rfl, hentry⟩
  rw [htrace, State.vectorReads_of_no_device hnone, List.append_nil]

/-! ## Stores (R169, R170, R282, R283) -/

/-- A store after a change of registers alone is a store in the state before it, with those registers changed. -/
theorem Stores.after_regs {ea : Word} {v : Byte} {regs : List PhysReg} {s u t : State} (hu : Frame { regs := regs } s u)
    (h : Stores ea v [] u t) : Stores ea v regs s t := by
  obtain ⟨hram, hrom, hdevice, hstore⟩ := h
  have hframe : Frame { regs := regs, mem := [ea], trace := true } s t :=
    (hu.trans hstore).mono (by simp [MayChange.within, MayChange.and])
  have hkind := hu.mapKind_kept ea
  obtain ⟨_, _, _, _, _, _, _, _, hbyte, htrace, _⟩ := hu
  rw [hkind, htrace rfl] at hram
  rw [hkind, htrace rfl, hbyte ea List.not_mem_nil] at hrom hdevice
  exact ⟨hram, hrom, hdevice, hframe⟩

/-- Settles O42: each store is MemWrite after the reads of its address, and `stra` adjusts its index register before. -/
theorem storesToMemory : Obligations.StoresToMemory := by
  intro s r rop aop a
  refine ⟨⟨_, rfl, State.memWrite_stores _ _ _⟩, ⟨_, rfl, ?_, ?_⟩, ⟨_, rfl, s.memWrite_stores _ _⟩,
    ⟨_, rfl, State.memWrite_stores _ _ _⟩⟩
  · refine Stores.after_regs ?_ (State.memWrite_stores _ _ _)
    rw [s.record_adjustIndex]
    exact (s.record _).adjustIndex_spec r aop.ic
  · exact (State.memWrite_reg _ _ _ r).trans (State.record_reg _ _ r)

/-! ## The fetch of an instruction (R67, R101, R128) -/

theorem State.advance_memRead (s : State) (k : MemAccess) (a : Word) : s.advance.memRead k a = s.memRead k a := rfl

theorem State.advanceBy_ip (n : Nat) (s : State) : (s.advanceBy n).ip = skipInPage n s.ip := by
  induction n generalizing s with
  | zero => rfl
  | succ n ih => exact ih s.advance

theorem State.advanceBy_frame (n : Nat) (s : State) : Frame { ip := true, trace := true } s (s.advanceBy n) := by
  induction n generalizing s with
  | zero => exact Frame.refl _ s
  | succ n ih => exact (s.advance_frame.trans (ih s.advance)).mono (by simp [MayChange.within, MayChange.and])

theorem State.advance_bytesAt_iff (s : State) (a : Word) (bytes : List Byte) :
    BytesAt s.advance a bytes ↔ BytesAt s a bytes := by
  induction bytes generalizing a with
  | nil => exact Iff.rfl
  | cons b bytes ih => exact and_congr (by rw [State.advance_memRead]) (ih (nextInPage a))

/-- Bytes that stand at IP: the fetch reads the first, and the others stand at IP after it. -/
theorem bytesAt_ip_cons_iff (s : State) (b : Byte) (bytes : List Byte) :
    BytesAt s s.ip (b :: bytes) ↔ s.byteAtIp = b ∧ BytesAt s.advance s.advance.ip bytes :=
  and_congr Iff.rfl (s.advance_bytesAt_iff (nextInPage s.ip) bytes).symm

/-- The fetch of the operand bytes reads what the decoder reads, and moves IP past them. -/
theorem fetchOperands_of_build {e : Entry} {bytes : List Byte} {i : Instr} {s : State}
    (h : e.build bytes = .ok (i, [])) (hb : BytesAt s s.ip bytes) :
    fetchOperands e s = (i, s.advanceBy bytes.length) := by
  cases e
  case one j =>
    obtain ⟨rfl, rfl⟩ := Prod.mk.inj (Except.ok.inj h)
    rfl
  case imm f | rel f =>
    obtain _ | ⟨b, bytes⟩ := bytes
    · exact nomatch h
    · obtain ⟨rfl, rfl⟩ := Prod.mk.inj (Except.ok.inj h)
      obtain ⟨rfl, _⟩ := (bytesAt_ip_cons_iff s _ _).mp hb
      rfl
  case abs f | branch f | far f =>
    obtain _ | ⟨b, _ | ⟨c, bytes⟩⟩ := bytes
    · exact nomatch h
    · exact nomatch h
    · obtain ⟨rfl, rfl⟩ := Prod.mk.inj (Except.ok.inj h)
      obtain ⟨rfl, hrest⟩ := (bytesAt_ip_cons_iff s _ _).mp hb
      obtain ⟨rfl, _⟩ := (bytesAt_ip_cons_iff s.advance _ _).mp hrest
      rfl

theorem fetchInstr_base {s : State} (h : s.byteAtIp ≠ extPrefix) :
    fetchInstr s = fetchOperands (baseEntry s.byteAtIp) s.advance :=
  if_neg h

theorem fetchInstr_ext {s : State} (h : s.byteAtIp = extPrefix) :
    fetchInstr s = fetchOperands (extEntry s.advance.byteAtIp) s.advance.advance :=
  if_pos h

/-- The fetch reads what the decoder reads, where an instruction's bytes stand at IP. B7h alone is no instruction (R109):
the fetch reads on. -/
theorem fetchInstr_of_decode {bytes : List Byte} {i : Instr} {s : State} (h : decode bytes = .ok (i, []))
    (hi : i ≠ .extdPrefix) (hb : BytesAt s s.ip bytes) : fetchInstr s = (i, s.advanceBy bytes.length) := by
  obtain _ | ⟨b, bytes⟩ := bytes
  · exact nomatch h
  obtain ⟨rfl, hrest⟩ := (bytesAt_ip_cons_iff s b bytes).mp hb
  by_cases hp : s.byteAtIp = extPrefix
  · obtain _ | ⟨c, bytes⟩ := bytes
    · rw [hp] at h
      exact absurd (congrArg Prod.fst (Except.ok.inj h)).symm hi
    · obtain ⟨rfl, hoperands⟩ := (bytesAt_ip_cons_iff s.advance c bytes).mp hrest
      rw [hp, decode_ext] at h
      exact (fetchInstr_ext hp).trans (fetchOperands_of_build h hoperands)
  · rw [decode_base hp] at h
    exact (fetchInstr_base hp).trans (fetchOperands_of_build h hrest)

/-- A well-formed instruction whose bytes stand at IP is the one fetched (R67, R101). -/
theorem fetchInstr_of_bytesAt {i : Instr} {s : State} (h : WellFormed i) (hb : BytesAt s s.ip (encode i)) :
    fetchInstr s = (i, s.advanceBy (encode i).length) := by
  have hdecode := decode_encode_append i [] h
  rw [List.append_nil] at hdecode
  refine fetchInstr_of_decode hdecode (fun hi => ?_) hb
  subst hi
  exact nomatch h

/-- Settles O9: the fetch reads what the decoder reads, and the decoder reads back what the encoder wrote. -/
theorem stepRunsDecoded : Obligations.StepRunsDecoded := by
  intro s i hwf hdue hhalted hb
  have hstep := step_runs s hdue hhalted
  rw [runInstr, fetchInstr_of_bytesAt hwf hb] at hstep
  exact ⟨hstep, State.advanceBy_ip _ s, State.advanceBy_frame _ s⟩

end Sys2Proof.Machine

/-! SUPPORT. The encoding and the operand forms (spec/30_encoding.md): the cells of the opcode maps and the bytes the encoder
writes for them, the effective addresses in numbers, and the branches that go to them (spec/41_branch.md, spec/47_far.md). -/

namespace Sys2Proof

/-! ## A cell's operand, its instruction and its bytes (R100, R105 to R108) -/

/-- The operand that completes a cell, by the cell's format. -/
def Entry.Operand : Entry → Type
  | .one _ => Unit
  | .imm _ => Byte
  | .rel _ => RelOperand
  | .abs _ => AbsOperand
  | .branch _ => BranchOperand
  | .far _ => Word

/-- The instruction a cell and an operand make. -/
def Entry.instr : (e : Entry) → e.Operand → Instr
  | .one i, _ => i
  | .imm f, v => f v
  | .rel f, op => f op
  | .abs f, op => f op
  | .branch f, op => f op
  | .far f, a => f a

/-- The operand bytes a cell's format writes. -/
def Entry.bytes : (e : Entry) → e.Operand → List Byte
  | .one _, _ => []
  | .imm _, v => [v]
  | .rel _, op => [RelOperand.toByte op]
  | .abs _, op => [AbsOperand.highByte op, AbsOperand.lowByte op]
  | .branch _, op => [BranchOperand.highByte op, BranchOperand.lowByte op]
  | .far _, a => [farHigh a, farLow a]

theorem Entry.bytes_length (e : Entry) (x : e.Operand) : (e.bytes x).length = e.operandBytes := by
  cases e <;> rfl

theorem Entry.operandBytes_le (e : Entry) : e.operandBytes ≤ 2 := by
  cases e <;> simp [Entry.operandBytes]

/-- A cell reads back the operand bytes its format writes. -/
theorem Entry.build_bytes (e : Entry) (x : e.Operand) (rest : List Byte) :
    e.build (e.bytes x ++ rest) = .ok (e.instr x, rest) := by
  cases e
  case one i | imm f => rfl
  case rel f => exact Entry.build_rel f x rest
  case abs f => exact Entry.build_abs f x rest
  case branch f => exact Entry.build_branch f x rest
  case far f => exact Entry.build_far f x rest

/-- The bytes a cell takes are those of an operand: the operand keeps every bit of them. -/
theorem Entry.exists_operand_of_build {e : Entry} {bytes : List Byte} {i : Instr} {rest : List Byte}
    (h : e.build bytes = .ok (i, rest)) : ∃ x : e.Operand, i = e.instr x ∧ bytes = e.bytes x ++ rest := by
  cases e
  case one j =>
    obtain ⟨rfl, rfl⟩ := Prod.mk.inj (Except.ok.inj h)
    exact ⟨(), rfl, rfl⟩
  case imm f =>
    obtain _ | ⟨b, bytes⟩ := bytes
    · exact nomatch h
    · obtain ⟨rfl, rfl⟩ := Prod.mk.inj (Except.ok.inj h)
      exact ⟨b, rfl, rfl⟩
  case rel f =>
    obtain _ | ⟨b, bytes⟩ := bytes
    · exact nomatch h
    · obtain ⟨rfl, rfl⟩ := Prod.mk.inj (Except.ok.inj h)
      exact ⟨.ofByte b, rfl, by simp [Entry.bytes]⟩
  case abs f | branch f | far f =>
    obtain _ | ⟨b, _ | ⟨c, bytes⟩⟩ := bytes
    · exact nomatch h
    · exact nomatch h
    · obtain ⟨rfl, rfl⟩ := Prod.mk.inj (Except.ok.inj h)
      exact ⟨_, rfl, by simp [Entry.bytes]⟩

/-- Two bytes are enough for every format. -/
theorem Entry.build_two (e : Entry) (b c : Byte) (rest : List Byte) :
    ∃ i after, e.build (b :: c :: rest) = .ok (i, after) := by
  cases e <;> exact ⟨_, _, rfl⟩

/-! ## The cells of the two maps (R109, R120, R121) -/

/-- The opcode bytes that select a cell: a byte of the base map, or B7h and a byte of the extended map. -/
inductive Cell : List Byte → Entry → Prop
  | base (b : Byte) (h : b ≠ extPrefix) : Cell [b] (baseEntry b)
  | ext (b : Byte) : Cell [extPrefix, b] (extEntry b)

theorem Cell.decode_append {opcode : List Byte} {e : Entry} (h : Cell opcode e) (bytes : List Byte) :
    decode (opcode ++ bytes) = e.build bytes := by
  cases h
  case base b h => exact decode_base h bytes
  case ext b => exact decode_ext b bytes

/-- What a cell at these opcode bytes owes the encoder: with every operand its instruction is well-formed and is written as the
opcode bytes and the operand's. -/
def Entry.StandsAt (e : Entry) (opcode : List Byte) : Prop :=
  ∀ x : e.Operand, encode (e.instr x) = opcode ++ e.bytes x ∧ WellFormed (e.instr x)

theorem exists_ofNat_of_byte (b : Byte) : ∃ n, n < 256 ∧ b = BitVec.ofNat 8 n :=
  ⟨b.toNat, b.isLt, by rw [BitVec.ofNat_toNat, BitVec.setWidth_eq]⟩

/-- Each of the 256 cells of the base map but that of B7h, by evaluation with its operand left open (R120). -/
theorem baseEntry_standsAt (b : Byte) (h : b ≠ extPrefix) : (baseEntry b).StandsAt [b] := by
  obtain ⟨n, hn, rfl⟩ := exists_ofNat_of_byte b
  have hne : n ≠ 0xB7 := fun hn => h (congrArg (BitVec.ofNat 8) hn)
  obtain hbelow | habove := Nat.lt_or_gt_of_ne hne
  · interval_cases n
    all_goals exact fun _ => ⟨rfl, rfl⟩
  · interval_cases n
    all_goals exact fun _ => ⟨rfl, rfl⟩

/-- Each of the 256 cells of the extended map, the blank ones included, in the same way (R121, R122). -/
theorem extEntry_standsAt (b : Byte) : (extEntry b).StandsAt [extPrefix, b] := by
  obtain ⟨n, hn, rfl⟩ := exists_ofNat_of_byte b
  interval_cases n
  all_goals exact fun _ => ⟨rfl, rfl⟩

theorem Cell.standsAt {opcode : List Byte} {e : Entry} (h : Cell opcode e) : e.StandsAt opcode := by
  cases h
  case base b h => exact baseEntry_standsAt b h
  case ext b => exact extEntry_standsAt b

/-- What the decoder reads: B7h alone, or a cell's opcode bytes and the bytes of an operand. -/
theorem decode_cases {bytes : List Byte} {i : Instr} {rest : List Byte} (h : decode bytes = .ok (i, rest)) :
    (i = .extdPrefix ∧ bytes = [extPrefix] ∧ rest = []) ∨
    ∃ opcode e, Cell opcode e ∧ ∃ x : e.Operand, i = e.instr x ∧ bytes = opcode ++ (e.bytes x ++ rest) := by
  obtain _ | ⟨b, bytes⟩ := bytes
  · exact nomatch h
  by_cases hp : b = extPrefix
  · subst hp
    obtain _ | ⟨c, bytes⟩ := bytes
    · obtain ⟨rfl, rfl⟩ := Prod.mk.inj (Except.ok.inj h)
      exact .inl ⟨rfl, rfl, rfl⟩
    · rw [decode_ext] at h
      obtain ⟨x, rfl, rfl⟩ := Entry.exists_operand_of_build h
      exact .inr ⟨_, _, .ext c, x, rfl, rfl⟩
  · rw [decode_base hp] at h
    obtain ⟨x, rfl, rfl⟩ := Entry.exists_operand_of_build h
    exact .inr ⟨_, _, .base b hp, x, rfl, rfl⟩

/-- The bytes of a well-formed instruction are those of a cell and an operand. -/
theorem encode_cases {i : Instr} (h : WellFormed i) :
    ∃ opcode e, Cell opcode e ∧ ∃ x : e.Operand, encode i = opcode ++ e.bytes x := by
  obtain ⟨rfl, _, _⟩ | ⟨opcode, e, hcell, x, _, hbytes⟩ := decode_cases (decode_encode_append i [] h)
  · exact nomatch h
  · rw [List.append_nil, List.append_nil] at hbytes
    exact ⟨opcode, e, hcell, x, hbytes⟩

/-! ## The statements about the encoding -/

/-- Settles O4: the opcode byte selects the instruction's cell, and the cell's format reads the operand back. -/
theorem decodeOfEncode : Obligations.DecodeOfEncode := decode_encode_append

/-- Settles O5: the bytes read are a cell's opcode bytes and an operand's, and the encoder writes those. -/
theorem encodeOfDecode : Obligations.EncodeOfDecode := by
  intro bytes i rest h
  obtain ⟨rfl, rfl, rfl⟩ | ⟨opcode, e, hcell, x, rfl, rfl⟩ := decode_cases h
  · exact ⟨rfl, .inr ⟨rfl, rfl⟩⟩
  · obtain ⟨hencode, hwf⟩ := hcell.standsAt x
    rw [hencode, List.append_assoc]
    exact ⟨rfl, .inl hwf⟩

/-- A cell's opcode bytes and two more begin with a well-formed instruction. -/
theorem Cell.decode_two {opcode : List Byte} {e : Entry} (h : Cell opcode e) (b c : Byte) (rest : List Byte) :
    ∃ i after, decode (opcode ++ b :: c :: rest) = .ok (i, after) ∧ WellFormed i ∧
      rest.length ≤ after.length ∧ after.length ≤ rest.length + 2 := by
  obtain ⟨i, after, hbuild⟩ := e.build_two b c rest
  obtain ⟨x, rfl, hbytes⟩ := Entry.exists_operand_of_build hbuild
  have hlength := congrArg List.length hbytes
  rw [List.length_append, e.bytes_length, List.length_cons, List.length_cons] at hlength
  have hle := e.operandBytes_le
  exact ⟨_, _, (h.decode_append _).trans hbuild, (h.standsAt x).2, by omega, by omega⟩

/-- Settles O6: the first byte, or B7h and the second, selects a cell, and two bytes complete it. -/
theorem decodeTotal : Obligations.DecodeTotal := by
  intro b0 b1 b2 b3 rest
  by_cases hp : b0 = extPrefix
  · subst hp
    obtain ⟨i, after, hdecode, hwf, hlow, hhigh⟩ := (Cell.ext b1).decode_two b2 b3 rest
    exact ⟨i, after, hdecode, hwf, hlow, by omega⟩
  · obtain ⟨i, after, hdecode, hwf, hlow, hhigh⟩ := (Cell.base b0 hp).decode_two b1 b2 (b3 :: rest)
    rw [List.length_cons] at hlow hhigh
    exact ⟨i, after, hdecode, hwf, by omega, by omega⟩

/-- Settles O7: the opcode bytes select the cell, and the cell's format fixes how many operand bytes follow. -/
theorem opcodeFixesLength : Obligations.OpcodeFixesLength := by
  refine ⟨fun i hi => ?_, fun i j hi hj hhead hsecond => ?_⟩
  · obtain ⟨opcode, e, hcell, x, hencode⟩ := encode_cases hi
    have hlength := e.bytes_length x
    have hle := e.operandBytes_le
    rw [hencode]
    cases hcell
    case base b hb =>
      refine ⟨fun hhead => absurd (Option.some.inj hhead) hb, fun _ => ?_⟩
      rw [List.length_append, List.length_singleton]
      omega
    case ext b =>
      refine ⟨fun _ => ?_, fun hhead => absurd rfl hhead⟩
      rw [List.length_append, List.length_cons, List.length_singleton]
      omega
  · obtain ⟨opcode, e, hcell, x, hencode⟩ := encode_cases hi
    obtain ⟨opcode', e', hcell', x', hencode'⟩ := encode_cases hj
    rw [hencode, hencode'] at hhead hsecond ⊢
    rw [List.length_append, List.length_append, e.bytes_length, e'.bytes_length]
    cases hcell <;> cases hcell'
    case base.base b hb c hc =>
      obtain rfl : b = c := Option.some.inj hhead
      rfl
    case base.ext b hb c => exact absurd (Option.some.inj hhead) hb
    case ext.base b c hc => exact absurd (Option.some.inj hhead).symm hc
    case ext.ext b c =>
      obtain rfl : b = c := Option.some.inj (hsecond rfl)
      rfl

/-- Settles O8: each word is evaluated by the decoder. -/
theorem sampleWordsDecode : Obligations.SampleWordsDecode :=
  ⟨rfl, rfl, rfl, rfl, rfl, rfl, rfl, rfl⟩

end Sys2Proof

namespace Sys2Proof.Machine

/-- Settles O11: each of these rows stops in every state. -/
theorem reservedRowsRefused : Obligations.ReservedRowsRefused :=
  fun _ => ⟨rfl, rfl, fun _ => rfl, rfl⟩

/-! ## The effective addresses in numbers (R112 to R118) -/

theorem State.pc_toNat (s : State) : s.pc.toNat = s.ip.toNat % 8192 := offset_toNat s.ip

/-- An address in the current page (R112, R114). -/
theorem State.inPage_toNat (s : State) (off : BitVec 13) :
    (s.inPage off).toNat = s.ip.toNat / 8192 * 8192 + off.toNat := by
  rw [State.inPage, page_append_toNat, State.page, page_toNat]

theorem State.inPage_spec (s : State) (off : BitVec 13) :
    (s.inPage off).toNat / 8192 = s.ip.toNat / 8192 ∧ (s.inPage off).toNat % 8192 = off.toNat := by
  have hoff := off.isLt
  rw [State.inPage_toNat]
  omega

/-- An address in the current half of memory (R115). -/
theorem State.inHalf_toNat (s : State) (a : BitVec 15) :
    (s.inHalf a).toNat = s.ip.toNat / 32768 * 32768 + a.toNat := by
  rw [State.inHalf, half_append_toNat, half_toNat]

/-- An unsigned index added to an address modulo the address's width (D6, D9; log 25). -/
theorem add_index_toNat {w : Nat} (hw : 8 ≤ w) (a : BitVec w) (x : Byte) :
    (a + x.setWidth w).toNat = (a.toNat + x.toNat) % 2 ^ w := by
  rw [BitVec.toNat_add, BitVec.toNat_setWidth_of_le hw]

/-- The offset of a relative address: NIP's, plus the signed displacement (D3, D4; log 24, 25). -/
theorem State.relOffset_toNat (s : State) (d : BitVec 7) :
    ((s.pc + d.signExtend 13).toNat : Int) = (s.ip.toNat % 8192 + d.toInt) % 8192 := by
  have hd := disp_toNat d
  rw [BitVec.toNat_add, State.pc_toNat]
  omega

/-- Settles O21: each direct address is its page or half and an offset; the offsets are sums modulo their width. -/
theorem directAddresses : Obligations.DirectAddresses := by
  intro s r ic d a13 a15 a16
  refine ⟨?_, ?_, ?_, ?_, ?_, ?_⟩
  · obtain ⟨hpage, hoffset⟩ := s.inPage_spec (s.pc + d.signExtend 13)
    exact ⟨hpage, (congrArg Nat.cast hoffset).trans (s.relOffset_toNat d)⟩
  · rw [← disp_toNat]
    exact congrArg Nat.cast ((page_append_toNat 0#3 _).trans (Nat.zero_add _))
  · obtain ⟨hpage, hoffset⟩ := s.inPage_spec (a13 + (s.index r ic).setWidth 13)
    rw [add_index_toNat (by decide), s.index_toNat] at hoffset
    exact ⟨hpage, hoffset⟩
  · exact s.inHalf_toNat a15
  · exact (s.inHalf_toNat _).trans (congrArg _ (add_index_toNat (by decide) a15 (s.reg .r3)))
  · exact add_index_toNat (by decide) a16 _

/-- Settles O22: with the indirect bit each mode reads its pointer at its direct address. -/
theorem indirectAddresses : Obligations.IndirectAddresses := by
  intro s r ic d a13 a15 a16
  refine ⟨rfl, rfl, ?_, rfl, ?_, rfl⟩
  · rw [s.absAddress_direct, ← s.index_toNat r ic]
    exact add_index_toNat (by decide) _ _
  · exact add_index_toNat (by decide) _ _

/-- Settles O23: the adjustment is a write of the index register, or nothing. -/
theorem indexRegisterAdjusted : Obligations.IndexRegisterAdjusted := by
  intro s r
  refine ⟨rfl, rfl, ?_, ?_, s.adjustIndex_spec r, rfl, fun ic hic => ?_⟩
  · rw [State.adjustIndex, State.setReg_reg, if_pos rfl, BitVec.toNat_add]
    rfl
  · rw [State.adjustIndex, State.setReg_reg, if_pos rfl, BitVec.toNat_sub, Nat.add_comm]
    rfl
  · cases ic
    case none => exact absurd rfl hic
    all_goals rfl

/-! ## The branches (R127, R180) -/

/-- An instruction that is a branch without link on a test `c` completes as the branches do, taken where `c` says `P` (R180). -/
theorem State.branchIf_completes {i : Instr} {s : State} {c : Bool} {target : Word} {reads : List Transaction} {P : Prop}
    (hexec : exec i s = .next (s.branchIf c target reads)) (h : c = true ↔ P) :
    Completes i s (Branches P false target reads s) :=
  ⟨_, hexec, s.branchIf_branches c target reads P h⟩

/-- The same with link (R180). -/
theorem State.callIf_completes {i : Instr} {s : State} {c : Bool} {target : Word} {reads : List Transaction} {P : Prop}
    (hexec : exec i s = .next (s.callIf c target reads)) (h : c = true ↔ P) :
    Completes i s (Branches P true target reads s) :=
  ⟨_, hexec, s.callIf_branches c target reads P h⟩

/-- Settles O45: each is a branch on a condition, a register or a false condition (R127), to the relative address. -/
theorem relativeBranches : Obligations.RelativeBranches := fun s m r _ =>
  have hnonzero : (s.reg r != 0#8) = true ↔ s.reg r ≠ 0#8 := bne_iff_ne
  ⟨State.branchIf_completes rfl (s.condTrue_iff m), State.callIf_completes rfl (s.condTrue_iff m),
    State.branchIf_completes rfl hnonzero, State.callIf_completes rfl hnonzero,
    fun _ => ⟨State.branchIf_completes rfl (s.condFalse_iff m), State.callIf_completes rfl (s.condFalse_iff m)⟩⟩

/-- Settles O46: the same tests, to the absolute branch address and to the far one. -/
theorem absoluteAndFarLinkBranches : Obligations.AbsoluteAndFarLinkBranches := fun s m r _ _ =>
  have hnonzero : (s.reg r != 0#8) = true ↔ s.reg r ≠ 0#8 := bne_iff_ne
  ⟨State.branchIf_completes rfl (s.condTrue_iff m), State.callIf_completes rfl (s.condTrue_iff m),
    State.callIf_completes rfl (s.condTrue_iff m),
    State.branchIf_completes rfl hnonzero, State.callIf_completes rfl hnonzero, State.callIf_completes rfl hnonzero,
    fun _ => ⟨State.branchIf_completes rfl (s.condFalse_iff m), State.callIf_completes rfl (s.condFalse_iff m),
      State.callIf_completes rfl (s.condFalse_iff m)⟩⟩

end Sys2Proof.Machine

/-! SUPPORT. The load, logic, arithmetic, store and compare instructions (spec/40_alu_memory.md): the bytes of those with a
register field, what a write of a result or of a comparison leaves, and the packed-BCD recipes (spec/42_rotate_decimal.md). -/

namespace Sys2Proof.Machine

/-! ## The bytes of an instruction (R100, R110) -/

/-- A well-formed instruction is read back from the bytes the encoder writes (R100). -/
theorem encodedAs_of_encode {i : Instr} {bytes : List Byte} (h : WellFormed i) (hb : encode i = bytes) :
    EncodedAs i bytes := by
  subst hb
  exact ⟨rfl, fun rest => decode_encode_append i rest h⟩

/-- The register field stands in bits 1:0 of an opcode byte, which the family leaves zero (R110). -/
theorem opcode_or_field {op : Byte} (hop : op &&& 3#8 = 0#8) (r : Reg) : op ||| r.field = op + r.bits.setWidth 8 := by
  have hfield : r.field &&& 3#8 = r.field := by cases r <;> rfl
  have hdisjoint : op &&& r.field = 0#8 := by
    rw [← hfield, BitVec.and_comm r.field, ← BitVec.and_assoc, hop, BitVec.zero_and]
  exact (BitVec.add_eq_or_of_and_eq_zero op r.field hdisjoint).symm

/-- The bytes of an instruction with a register field: its family's opcode byte plus the register, and the operand (R110). -/
theorem encodedAs_of_field {i : Instr} {op : Byte} {r : Reg} {operand : List Byte} (h : WellFormed i)
    (hb : encode i = (op ||| r.field) :: operand) (hop : op &&& 3#8 = 0#8) :
    EncodedAs i ((op + r.bits.setWidth 8) :: operand) :=
  encodedAs_of_encode h (opcode_or_field hop r ▸ hb)

/-! ## Loads and logic (R144 to R159, R168, R281) -/

/-- An instruction that ends in a write of a result, after its reads are recorded in `u`, loads that result. -/
theorem State.loadReg_completes {i : Instr} {s u : State} {r : Reg} {v : Byte} (hexec : exec i s = .next (u.loadReg r v)) :
    Completes i s (Loads r v u) :=
  ⟨_, hexec, u.loadReg_loads r v⟩

/-- The same in the absolute mode: the index register is adjusted before, and the data register is R0 when indexed (R114). -/
theorem State.loadReg_abs_completes {i : Instr} {s : State} {r : Reg} {op : AbsOperand} {v : Byte} {reads : List Transaction}
    (hexec : exec i s = .next (((s.adjustIndex r op.ic).record reads).loadReg (dataReg r op.ic) v)) :
    Completes i s (LoadsAbs r op v (s.record reads)) := by
  rw [s.record_adjustIndex] at hexec
  exact ⟨_, hexec, (s.record reads).loadReg_loadsAbs r op v⟩

/-- Settles O33: `lodi` is a write of its immediate as a result. -/
theorem loadImmediate : Obligations.LoadImmediate := fun _ _ _ =>
  ⟨encodedAs_of_field rfl rfl (by decide), State.loadReg_completes rfl⟩

/-- Settles O35: `ldfi` reads its pointer at a flat address, the default of FAR_I_MODE and PTR_WRAP. -/
theorem loadsFromRegisterAndMemory : Obligations.LoadsFromRegisterAndMemory := fun _ _ _ _ _ =>
  ⟨State.loadReg_completes rfl, State.loadReg_completes rfl, State.loadReg_abs_completes rfl, State.loadReg_completes rfl⟩

/-- Settles O36: each writes its result; a register other than R0 is what makes `andz` well-formed (R123). -/
theorem logicWithRegisterAndImmediate : Obligations.LogicWithRegisterAndImmediate := fun _ _ _ =>
  ⟨encodedAs_of_field rfl rfl (by decide), State.loadReg_completes rfl,
    fun hr => ⟨encodedAs_of_field (bne_iff_ne.mpr hr) rfl (by decide), State.loadReg_completes rfl⟩,
    by decide, encodedAs_of_encode rfl rfl,
    encodedAs_of_field rfl rfl (by decide), State.loadReg_completes rfl,
    encodedAs_of_field rfl rfl (by decide), State.loadReg_completes rfl,
    encodedAs_of_field rfl rfl (by decide), State.loadReg_completes rfl,
    encodedAs_of_field rfl rfl (by decide), State.loadReg_completes rfl⟩

/-- Settles O37: each writes its result after the reads of its operand, in the relative and in the absolute mode. -/
theorem logicWithMemory : Obligations.LogicWithMemory := fun _ _ _ _ =>
  ⟨State.loadReg_completes rfl, State.loadReg_completes rfl, State.loadReg_completes rfl,
    State.loadReg_abs_completes rfl, State.loadReg_abs_completes rfl, State.loadReg_abs_completes rfl⟩

/-- Settles O41: `strz` writes R0's value as a result, and is well-formed with every register but R0 (R123). -/
theorem storeToRegister : Obligations.StoreToRegister :=
  ⟨fun _ _ hr => ⟨encodedAs_of_field (bne_iff_ne.mpr hr) rfl (by decide), State.loadReg_completes rfl⟩,
    by decide, encodedAs_of_encode rfl rfl⟩

/-! ## Addition and subtraction (R141, R142, R160 to R167) -/

/-- `P` holds of the value of `x` and of every state that holds its three flags. -/
def AluResult.Shows (x : AluResult) (P : Byte → State → Prop) : Prop :=
  ∀ t : State, t.carry = x.c → t.idc = x.idc → t.ovf = x.ovf → P x.value t

/-- Add8 gives the exact sum with the carry that WC allows (R141). -/
theorem State.add8_shows (s : State) (a b : Byte) : (s.add8 a b).Shows (Sums a b (carryIn s)) := by
  intro t hc hi ho
  rw [s.carryIn_eq]
  exact addCarry_sums a b _ t hc hi ho

/-- Sub8 gives the exact difference with the borrow that WC allows (R142). -/
theorem State.sub8_shows (s : State) (a b : Byte) : (s.sub8 a b).Shows (Subtracts a b (borrowIn s)) := by
  intro t hc hi ho
  rw [s.borrowIn_eq]
  exact addCarry_subtracts a b _ t hc hi ho

theorem State.adjustIndex_wc (s : State) (r : Reg) (ic : IndexControl) : (s.adjustIndex r ic).wc = s.wc := by
  rw [State.wc, s.adjustIndex_psl, State.wc]

theorem State.adjustIndex_carry (s : State) (r : Reg) (ic : IndexControl) : (s.adjustIndex r ic).carry = s.carry := by
  rw [State.carry, s.adjustIndex_psl, State.carry]

/-- The adjustment of the index register writes no flag, so it changes neither the carry nor the borrow taken in (R114). -/
theorem State.adjustIndex_carryIn (s : State) (r : Reg) (ic : IndexControl) : carryIn (s.adjustIndex r ic) = carryIn s := by
  rw [carryIn, s.adjustIndex_wc, s.adjustIndex_carry, carryIn]

theorem State.adjustIndex_borrowIn (s : State) (r : Reg) (ic : IndexControl) :
    borrowIn (s.adjustIndex r ic) = borrowIn s := by
  rw [borrowIn, s.adjustIndex_wc, s.adjustIndex_carry, borrowIn]

/-- Writing an arithmetic result: the register and the flags show what the result shows, and CC the register's sign. -/
theorem State.arithReg_shows {x : AluResult} {P : Byte → State → Prop} (h : x.Shows P) (u : State) (r : Reg) :
    P ((u.arithReg r x).reg r) (u.arithReg r x) ∧ CCShows ((u.arithReg r x).reg r).toInt (u.arithReg r x).cc ∧
      Frame { regs := [physOf u.rs r], psl := arithBits } u (u.arithReg r x) := by
  obtain ⟨hreg, hcarry, hidc, hovf, hcc, hframe⟩ := u.arithReg_spec r x
  rw [hreg]
  exact ⟨h _ hcarry hidc hovf, hcc, hframe⟩

/-- An instruction that ends in a write of an arithmetic result, after its reads are recorded in `u`. -/
theorem State.arithReg_completes {i : Instr} {s : State} (u : State) {r : Reg} {x : AluResult} {P : Byte → State → Prop}
    (h : x.Shows P) (hexec : exec i s = .next (u.arithReg r x)) :
    Completes i s fun t => P (t.reg r) t ∧ CCShows (t.reg r).toInt t.cc ∧
      Frame { regs := [physOf u.rs r], psl := arithBits } u t :=
  ⟨_, hexec, State.arithReg_shows h u r⟩

/-- The same in the absolute mode: the index register is adjusted before, and the data register is R0 when indexed (R114). -/
theorem State.arithReg_abs_completes {i : Instr} {s : State} {r : Reg} {op : AbsOperand} {x : AluResult}
    {reads : List Transaction} {P : Byte → State → Prop} (h : x.Shows P)
    (hexec : exec i s = .next (((s.adjustIndex r op.ic).record reads).arithReg (dataReg r op.ic) x)) :
    Completes i s fun t => P (t.reg (dataReg r op.ic)) t ∧ CCShows (t.reg (dataReg r op.ic)).toInt t.cc ∧
      (dataReg r op.ic ≠ r → t.reg r = (s.adjustIndex r op.ic).reg r) ∧
      Frame { regs := [physOf s.rs (dataReg r op.ic), physOf s.rs r], psl := arithBits } (s.record reads) t := by
  obtain ⟨hP, hcc, hframe⟩ := State.arithReg_shows h ((s.adjustIndex r op.ic).record reads) (dataReg r op.ic)
  have hadjust : Frame { regs := [physOf s.rs r] } (s.record reads) ((s.adjustIndex r op.ic).record reads) := by
    rw [s.record_adjustIndex]
    exact (s.record reads).adjustIndex_spec r op.ic
  rw [State.record_rs, s.adjustIndex_rs] at hframe
  refine ⟨_, hexec, hP, hcc, fun hne => ?_, (hadjust.trans hframe).mono (by simp [MayChange.within, MayChange.and])⟩
  exact (State.arithReg_reg_of_ne _ _ _ _ hne.symm).trans (State.record_reg _ _ r)

/-- Settles O38: each is Add8 (R141), whose carry-in the index register's adjustment leaves. -/
theorem additions : Obligations.Additions := by
  intro s r imm rop op
  have habs := (s.adjustIndex r op.ic).add8_shows ((s.adjustIndex r op.ic).reg (dataReg r op.ic))
    ((s.adjustIndex r op.ic).absByte r op)
  rw [s.adjustIndex_carryIn] at habs
  exact ⟨State.arithReg_completes s (s.add8_shows _ _) rfl, State.arithReg_completes s (s.add8_shows _ _) rfl,
    State.arithReg_completes (s.record _) (s.add8_shows _ _) rfl, State.arithReg_abs_completes habs rfl⟩

/-- Settles O39: each is Sub8 (R142), whose borrow-in the index register's adjustment leaves. -/
theorem subtractions : Obligations.Subtractions := by
  intro s r imm rop op
  have habs := (s.adjustIndex r op.ic).sub8_shows ((s.adjustIndex r op.ic).reg (dataReg r op.ic))
    ((s.adjustIndex r op.ic).absByte r op)
  rw [s.adjustIndex_borrowIn] at habs
  exact ⟨State.arithReg_completes s (s.sub8_shows _ _) rfl, State.arithReg_completes s (s.sub8_shows _ _) rfl,
    State.arithReg_completes (s.record _) (s.sub8_shows _ _) rfl, State.arithReg_abs_completes habs rfl⟩

/-! ## Compares (R143, R171 to R174) -/

/-- Compare writes CC and nothing else (R143). -/
theorem State.setCC_compares (s : State) (p q : Byte) : Compares p q [] s (s.setCC (compareCC s.com p q)) := by
  refine ⟨?_, s.setCC_frame _⟩
  rw [State.setCC_cc]
  exact compareCC_shows s.com p q

/-- A compare after a change of registers alone is a compare in the state before it, with those registers changed. -/
theorem Compares.after_regs {p q : Byte} {regs : List PhysReg} {s u t : State} (hu : Frame { regs := regs } s u)
    (h : Compares p q [] u t) : Compares p q regs s t := by
  obtain ⟨hcc, hframe⟩ := h
  have hcom : u.com = s.com := hu.psl_kept (k := 1) (by decide) List.not_mem_nil
  rw [hcom] at hcc
  exact ⟨hcc, (hu.trans hframe).mono (by simp [MayChange.within, MayChange.and])⟩

/-- Settles O43: both are a write of Compare's Condition Code. -/
theorem comparesWithRegister : Obligations.ComparesWithRegister := fun s _ _ =>
  ⟨encodedAs_of_field rfl rfl (by decide), ⟨_, rfl, s.setCC_compares _ _⟩,
    encodedAs_of_field rfl rfl (by decide), ⟨_, rfl, s.setCC_compares _ _⟩⟩

/-- Settles O44: `coma` compares in the state after the index register's adjustment, which leaves COM. -/
theorem comparesWithMemory : Obligations.ComparesWithMemory := by
  intro s r rop aop
  refine ⟨⟨_, rfl, (s.record _).setCC_compares _ _⟩, ⟨_, rfl, ?_, ?_⟩⟩
  · refine Compares.after_regs ?_ (State.setCC_compares ((s.adjustIndex r aop.ic).record _) _ _)
    rw [s.record_adjustIndex]
    exact (s.record _).adjustIndex_spec r aop.ic
  · rw [State.setCC_reg, State.record_reg]

/-! ## The packed-BCD recipes (R212, R213) -/

theorem Completes.imp {i : Instr} {s : State} {P Q : State → Prop} (h : Completes i s P) (hPQ : ∀ t, P t → Q t) :
    Completes i s Q := by
  obtain ⟨t, hexec, hP⟩ := h
  exact ⟨t, hexec, hPQ t hP⟩

section
variable {s : State} {r : Reg} {imm : Byte}

/-- With WC = 0 no carry goes into `addi` (R161), and WC stays 0 for the instruction after it. -/
theorem addi_completes_of_wc (hwc : s.wc = false) :
    Completes (.addi r imm) s fun t => t.wc = false ∧ Sums (s.reg r) imm 0 (t.reg r) t := by
  have hin : carryIn s = 0 := by rw [carryIn, hwc, if_neg (by decide)]
  refine (State.arithReg_completes s (s.add8_shows (s.reg r) imm) rfl).imp fun t ⟨hsum, _, hframe⟩ => ?_
  exact ⟨(hframe.psl_kept (k := 3) (by decide) (show 3 ∉ arithBits by decide)).trans hwc, hin ▸ hsum⟩

/-- With WC = 0 no borrow goes into `subi` (R165). -/
theorem subi_completes_of_wc (hwc : s.wc = false) :
    Completes (.subi r imm) s fun t => Subtracts (s.reg r) imm 0 (t.reg r) t := by
  have hin : borrowIn s = 0 := by rw [borrowIn, hwc, if_neg (by decide)]
  exact (State.arithReg_completes s (s.sub8_shows (s.reg r) imm) rfl).imp fun t ⟨hdiff, _⟩ => hin ▸ hdiff

end

/-- `dar` adjusts the register by C and IDC, and leaves C (R212). -/
theorem dar_completes (s : State) (r : Reg) :
    Completes (.dar r) s fun t => t.reg r = decimalAdjust s.carry s.idc (s.reg r) ∧ t.carry = s.carry := by
  refine ⟨_, rfl, ?_, (s.setReg_frame r _).psl_kept (k := 0) (by decide) List.not_mem_nil⟩
  rw [State.reg_setReg, if_pos rfl]

section
variable {a b v : Byte} {t : State}

/-- The 6 added to each digit makes a digit's sum carry out of its nibble where it is above 9; where it does not, `dar` takes
the 6 back by adding 10 modulo 16 (C12). -/
theorem decimalAdjust_bcd_sum {m : Byte} (ha : isBcd a) (hb : isBcd b) (hm : m.toNat = a.toNat + 0x66)
    (h : Sums m b 0 v t) :
    isBcd (decimalAdjust t.carry t.idc v) ∧
      bcdValue (decimalAdjust t.carry t.idc v) + 100 * t.carry.toNat = bcdValue a + bcdValue b := by
  obtain ⟨hlow_a, hhigh_a⟩ := ha
  obtain ⟨hlow_b, hhigh_b⟩ := hb
  obtain ⟨hv, hcarry, hidc, _⟩ := h
  rw [hm] at hv hcarry hidc
  unfold isBcd bcdValue
  rw [decimalAdjust_toNat]
  cases hc : t.carry <;> cases hi : t.idc <;>
    simp only [hc, hi, Bool.false_eq_true, if_true, if_false, true_iff, false_iff, Bool.toNat_true, Bool.toNat_false]
      at hcarry hidc ⊢ <;> omega

/-- Where a digit borrows from the next its nibble is 6 too high, and `dar` takes the 6 back by adding 10 modulo 16 (C12). -/
theorem decimalAdjust_bcd_difference (ha : isBcd a) (hb : isBcd b) (h : Subtracts a b 0 v t) :
    isBcd (decimalAdjust t.carry t.idc v) ∧
      bcdValue (decimalAdjust t.carry t.idc v) + bcdValue b = bcdValue a + 100 * (1 - t.carry.toNat) := by
  obtain ⟨hlow_a, hhigh_a⟩ := ha
  obtain ⟨hlow_b, hhigh_b⟩ := hb
  obtain ⟨hv, hcarry, hidc, _⟩ := h
  unfold isBcd bcdValue
  rw [decimalAdjust_toNat]
  cases hc : t.carry <;> cases hi : t.idc <;>
    simp only [hc, hi, Bool.false_eq_true, if_true, if_false, true_iff, false_iff, Bool.toNat_true, Bool.toNat_false]
      at hcarry hidc ⊢ <;> omega

/-- 66h and two decimal digits make no carry out of the byte. -/
theorem toNat_of_bcd_plus_66 (ha : isBcd a) (h : Sums a 0x66#8 0 v t) : v.toNat = a.toNat + 0x66 := by
  obtain ⟨hlow, hhigh⟩ := ha
  obtain ⟨hv, _⟩ := h
  rw [hv, show (0x66#8).toNat = 0x66 from rfl]
  omega

end

/-- Settles O40: the binary sum or difference of each recipe leaves in C and IDC what `dar` needs for its two digits. -/
theorem decimalRecipes : Obligations.DecimalRecipes := by
  intro s r b hwc ha hb
  constructor
  · refine (addi_completes_of_wc hwc).imp fun u ⟨hwcu, hsix⟩ => ?_
    refine (addi_completes_of_wc hwcu).imp fun w ⟨_, hsum⟩ => ?_
    refine (dar_completes w r).imp fun t ⟨hreg, hcarry⟩ => ?_
    rw [CompletesAll, hreg, hcarry]
    exact decimalAdjust_bcd_sum ha hb (toNat_of_bcd_plus_66 ha hsix) hsum
  · refine (subi_completes_of_wc hwc).imp fun w hdiff => ?_
    refine (dar_completes w r).imp fun t ⟨hreg, hcarry⟩ => ?_
    rw [CompletesAll, hreg, hcarry]
    exact decimalAdjust_bcd_difference ha hb hdiff

end Sys2Proof.Machine

/-! SUPPORT. The counting branches (spec/41_branch.md R193 to R196, spec/47_far.md R290, R291), and an interrupt followed by
the return of its handler (R198, R306, R311). -/

namespace Sys2Proof.Machine

/-! ## Branch targets after a write of a register -/

@[simp] theorem State.setReg_memReads (s : State) (r : Reg) (v : Byte) (k : MemAccess) (a : Word) :
    (s.setReg r v).memReads k a = s.memReads k a := by
  by_cases h : s.mapKind a = some .device
  · rw [State.memReads_of_device h, State.memReads_of_device (by rwa [State.setReg_mapKind]), State.setReg_memRead]
  · rw [State.memReads_of_not_device h, State.memReads_of_not_device (by rwa [State.setReg_mapKind])]

@[simp] theorem State.setReg_follow (s : State) (r : Reg) (v : Byte) (ind : Bool) (a : Word) :
    (s.setReg r v).follow ind a = s.follow ind a := by
  simp [State.follow, State.ptr16]

@[simp] theorem State.setReg_followReads (s : State) (r : Reg) (v : Byte) (ind : Bool) (a : Word) :
    (s.setReg r v).followReads ind a = s.followReads ind a := by
  simp [State.followReads, State.ptr16Reads]

@[simp] theorem State.setReg_inPage (s : State) (r : Reg) (v : Byte) (off : BitVec 13) :
    (s.setReg r v).inPage off = s.inPage off := by
  simp [State.inPage]

@[simp] theorem State.setReg_inHalf (s : State) (r : Reg) (v : Byte) (a : BitVec 15) :
    (s.setReg r v).inHalf a = s.inHalf a := by
  simp [State.inHalf]

theorem State.setReg_relAddress (s : State) (r : Reg) (v : Byte) (op : RelOperand) :
    (s.setReg r v).relAddress op = s.relAddress op := by
  simp [State.relAddress]

theorem State.setReg_relReads (s : State) (r : Reg) (v : Byte) (op : RelOperand) :
    (s.setReg r v).relReads op = s.relReads op := by
  simp [State.relReads]

theorem State.setReg_branchAddress (s : State) (r : Reg) (v : Byte) (op : BranchOperand) :
    (s.setReg r v).branchAddress op = s.branchAddress op := by
  simp [State.branchAddress]

theorem State.setReg_branchReads (s : State) (r : Reg) (v : Byte) (op : BranchOperand) :
    (s.setReg r v).branchReads op = s.branchReads op := by
  simp [State.branchReads]

/-! ## Counting (R193 to R196, R290, R291) -/

/-- Counting up reaches zero from 255 alone. -/
theorem count_up_ne_zero (b : Byte) : b + 1#8 ≠ 0#8 ↔ b.toNat ≠ 255 := by
  bv_omega

/-- Counting down reaches zero from 1 alone. -/
theorem count_down_ne_zero (b : Byte) : b - 1#8 ≠ 0#8 ↔ b.toNat ≠ 1 := by
  bv_omega

/-- An instruction that writes a count into a register and then branches, without link, on that register being not zero.
Its target may be evaluated after the write, if the write does not move it. -/
theorem State.countingBranch_completes {i : Instr} {s : State} {r : Reg} {v : Byte} {a target : Word}
    {ts reads : List Transaction} {P : Prop}
    (hexec : exec i s = .next ((s.setReg r v).branchIf ((s.setReg r v).reg r != 0#8) a ts))
    (htarget : a = target) (hreads : ts = reads) (h : v ≠ 0#8 ↔ P) :
    Completes i s (Branches P false target reads (s.setReg r v)) := by
  subst htarget hreads
  rw [State.setReg_reg, if_pos rfl] at hexec
  exact ⟨_, hexec, State.branchIf_branches _ _ _ _ P (bne_iff_ne.trans h)⟩

/-- Settles O48: each is a count and then a branch on it, and the count moves neither the target nor its reads. -/
theorem countingBranches : Obligations.CountingBranches := fun s r rop bop _ =>
  have hup := count_up_ne_zero (s.reg r)
  have hdown := count_down_ne_zero (s.reg r)
  ⟨State.countingBranch_completes rfl (s.setReg_relAddress r _ rop) (s.setReg_relReads r _ rop) hup,
    State.countingBranch_completes rfl (s.setReg_branchAddress r _ bop) (s.setReg_branchReads r _ bop) hup,
    State.countingBranch_completes rfl rfl rfl hup,
    State.countingBranch_completes rfl (s.setReg_relAddress r _ rop) (s.setReg_relReads r _ rop) hdown,
    State.countingBranch_completes rfl (s.setReg_branchAddress r _ bop) (s.setReg_branchReads r _ bop) hdown,
    State.countingBranch_completes rfl rfl rfl hdown⟩

/-! ## What is brought back leaves the frame -/

section
variable {c : MayChange} {s t : State}

theorem Frame.ip_restored (h : Frame c s t) (hip : t.ip = s.ip) : Frame { c with ip := false } s t := by
  obtain ⟨hregs, hpsl, hpsu, hstack, _, hrest⟩ := h
  exact ⟨hregs, hpsl, hpsu, hstack, fun _ => hip, hrest⟩

/-- Only the bits of PSU that differ need be named. -/
theorem Frame.psu_restored {bits : List Nat} (h : Frame c s t)
    (hbits : ∀ k ∈ c.psu, k ∉ bits → t.psu.getLsbD k = s.psu.getLsbD k) : Frame { c with psu := bits } s t := by
  obtain ⟨hregs, hpsl, hpsu, hrest⟩ := h
  refine ⟨hregs, hpsl, fun k hk hout => ?_, hrest⟩
  by_cases hin : k ∈ c.psu
  · exact hbits k hin hout
  · exact hpsu k hk hin

/-- States of one SP agree on its bits of PSU (R27, R28). -/
theorem psu_bit_of_sp_eq (h : t.sp = s.sp) {k : Nat} (hk : k ∈ spBits) : t.psu.getLsbD k = s.psu.getLsbD k := by
  have hlt : k < 4 := by
    revert k
    decide
  have hbit := congrArg (BitVec.getLsbD · k) h
  simpa [State.sp, BitVec.getLsbD_extractLsb', hlt] using hbit

end

/-! ## Interrupt and return (R198, R306, R311) -/

/-- The return pops the entry that taking the interrupt pushed: IP and SP come back, also from SP = 15 (D10, log 26), and of
PSU only II can differ. -/
theorem State.enterInterrupt_returnFrom (s : State) (src : IrqSource) (clearII : Bool) :
    ((s.enterInterrupt src).returnFrom clearII).ip = s.ip ∧
      ((s.enterInterrupt src).returnFrom clearII).ii = !clearII ∧
      ((s.enterInterrupt src).returnFrom clearII).halted = false ∧
      Frame { stack := [s.sp], psu := [5], halted := true } (s.record (s.vectorReads src))
        ((s.enterInterrupt src).returnFrom clearII) := by
  obtain ⟨hpushed, hsp, hii, hhalted, _, _, hentry⟩ := s.enterInterrupt_spec src
  obtain ⟨hip', hsp', hcleared, hkept, hreturn⟩ := (s.enterInterrupt src).returnFrom_spec clearII
  have hback : s.sp + 1#4 - 1#4 = s.sp := BitVec.add_sub_cancel _ _
  rw [hsp, hback] at hip' hsp'
  have hip := hip'.trans hpushed
  have hboth : Frame { stack := [s.sp], psu := 5 :: spBits, ip := true, halted := true } (s.record (s.vectorReads src))
      ((s.enterInterrupt src).returnFrom clearII) :=
    (hentry.trans hreturn).mono (by cases clearII <;> simp [MayChange.within, MayChange.and, spBits])
  refine ⟨hip, ?_, (hreturn.halted_kept rfl).trans hhalted, (hboth.ip_restored hip).psu_restored fun k hk hne => ?_⟩
  · cases clearII
    · exact (hkept rfl).trans hii
    · exact hcleared rfl
  · exact psu_bit_of_sp_eq hsp' ((List.mem_cons.mp hk).resolve_left fun h5 => hne (List.mem_singleton.mpr h5))

/-- Settles O29: the step is the entry and each return is `returnFrom`; II was 0, or no interrupt would be due, so `rete`
brings it back as well. -/
theorem entryThenReturn : Obligations.EntryThenReturn := by
  intro s src hdue
  obtain ⟨hii, _, _⟩ := s.interruptDue_some src hdue
  have hstep := step_due s src hdue
  obtain ⟨hipE, hiiE, hhaltedE, hframeE⟩ := s.enterInterrupt_returnFrom src true
  obtain ⟨hipC, hiiC, hhaltedC, hframeC⟩ := s.enterInterrupt_returnFrom src false
  refine ⟨⟨_, _, hstep, rfl, hipE, hhaltedE, hframeE.psu_restored fun k hk _ => ?_⟩,
    ⟨_, _, hstep, rfl, hipC, hiiC, hhaltedC, hframeC⟩⟩
  obtain rfl : k = 5 := List.mem_singleton.mp hk
  exact hiiE.trans hii.symm

end Sys2Proof.Machine

/-! SUPPORT. The rotates and `dar` on their own (spec/42_rotate_decimal.md R210 to R212): the bits of a rotated byte, the two
digits of an adjusted one, and what each instruction leaves. -/

namespace Sys2Proof.Machine

/-! ## The bits of a rotated byte (R210, R211) -/

section
variable (wc c : Bool) (v : Byte)

/-- Every bit but the top one of `rrr`'s result comes from the bit on its left. -/
theorem rotateRight_getLsbD_of_lt {k : Nat} (hk : k < 7) : (rotateRight wc c v).getLsbD k = v.getLsbD (k + 1) := by
  unfold rotateRight
  rw [show (BitVec.ofBool _ ++ v.extractLsb' 1 7 : BitVec 8).getLsbD k = _ from BitVec.getLsbD_append]
  simp [hk, Nat.add_comm]

/-- The top bit of `rrr`'s result is C with WC = 1, and bit 0 of the byte with WC = 0. -/
theorem rotateRight_getLsbD_seven : (rotateRight wc c v).getLsbD 7 = if wc then c else v.getLsbD 0 := by
  unfold rotateRight
  rw [show (BitVec.ofBool _ ++ v.extractLsb' 1 7 : BitVec 8).getLsbD 7 = _ from BitVec.getLsbD_append]
  simp

/-- Every bit but bit 0 of `rrl`'s result comes from the bit on its right. -/
theorem rotateLeft_getLsbD_succ {k : Nat} (hk : k < 7) : (rotateLeft wc c v).getLsbD (k + 1) = v.getLsbD k := by
  unfold rotateLeft
  rw [show (v.extractLsb' 0 7 ++ BitVec.ofBool _ : BitVec 8).getLsbD (k + 1) = _ from BitVec.getLsbD_append]
  simp [hk]

/-- Bit 0 of `rrl`'s result is C with WC = 1, and the top bit of the byte with WC = 0. -/
theorem rotateLeft_getLsbD_zero : (rotateLeft wc c v).getLsbD 0 = if wc then c else v.getLsbD 7 := by
  unfold rotateLeft
  rw [show (v.extractLsb' 0 7 ++ BitVec.ofBool _ : BitVec 8).getLsbD 0 = _ from BitVec.getLsbD_append]
  simp

end

/-! ## The digits of an adjusted byte (R212) -/

section
variable (c idc : Bool) (v : Byte)

/-- C alone decides the high digit. -/
theorem decimalAdjust_high_digit :
    (decimalAdjust c idc v).toNat / 16 = (v.toNat / 16 + if c then 0 else 10) % 16 := by
  rw [decimalAdjust_toNat]
  omega

/-- IDC alone decides the low digit: what it gives to the next digit is dropped. -/
theorem decimalAdjust_low_digit :
    (decimalAdjust c idc v).toNat % 16 = (v.toNat % 16 + if idc then 0 else 10) % 16 := by
  rw [decimalAdjust_toNat]
  omega

end

/-! ## The instructions -/

/-- An instruction that ends in a write of a rotate's result: the register and CC show it, C and IDC are written with WC = 1
alone, and nothing else changes. -/
theorem State.rotateReg_completes {i : Instr} {s : State} {r : Reg} {v : Byte} {c idc : Bool}
    (hexec : exec i s = .next (s.rotateReg r v c idc)) :
    Completes i s fun t => t.reg r = v ∧ CCShows (t.reg r).toInt t.cc ∧
      (s.wc = true → t.carry = c ∧ t.idc = idc) ∧
      Frame { regs := [physOf s.rs r], psl := if s.wc then [7, 6, 5, 0] else ccBits } s t := by
  obtain ⟨hreg, hcc, hflags, hframe⟩ := s.rotateReg_spec r v c idc
  exact ⟨_, hexec, hreg, hreg.symm ▸ hcc, hflags, hframe⟩

/-- `dar` leaves the adjusted digits in the register, and changes nothing else. -/
theorem dar_adjusts_digits (s : State) (r : Reg) :
    Completes (.dar r) s fun t =>
      (t.reg r).toNat / 16 = ((s.reg r).toNat / 16 + if s.carry then 0 else 10) % 16 ∧
      (t.reg r).toNat % 16 = ((s.reg r).toNat % 16 + if s.idc then 0 else 10) % 16 ∧
      Frame { regs := [physOf s.rs r] } s t := by
  refine ⟨_, rfl, ?_⟩
  beta_reduce
  rw [State.reg_setReg, if_pos rfl]
  exact ⟨decimalAdjust_high_digit .., decimalAdjust_low_digit .., s.setReg_frame r _⟩

/-- Settles O51: each rotate is `rotateReg` of its rotated byte, and OVF is outside the frame of both (C9). -/
theorem rotatesAndDecimalAdjust : Obligations.RotatesAndDecimalAdjust := by
  intro s r
  refine ⟨?_, ?_, dar_adjusts_digits s r⟩
  · refine (State.rotateReg_completes rfl).imp fun t ⟨hreg, hrest⟩ => ⟨fun k hk => ?_, ?_, hrest⟩
    · rw [hreg, rotateRight_getLsbD_of_lt _ _ _ hk]
    · rw [hreg, rotateRight_getLsbD_seven]
  · refine (State.rotateReg_completes rfl).imp fun t ⟨hreg, hrest⟩ => ⟨fun k hk => ?_, ?_, hrest⟩
    · rw [hreg, rotateLeft_getLsbD_succ _ _ _ hk]
    · rw [hreg, rotateLeft_getLsbD_zero]

end Sys2Proof.Machine

/-! SUPPORT. Input and output (spec/43_io.md R220 to R226), and the record of transactions: what each shared operation adds
to it, and how much an instruction may add (spec/20_memory.md R68, R76). -/

namespace Sys2Proof.Machine

/-! ## The six I/O instructions (R220 to R225) -/

/-- IoWrite makes its one transaction and changes nothing else. -/
theorem State.ioWrite_transacts (s : State) (port : IoPort) (v : Byte) :
    Transacts (.ioWrite port v) {} s (s.ioWrite port v) :=
  ⟨rfl, s.record_frame _⟩

@[simp] theorem State.ioRead_rs (s : State) (port : IoPort) : (s.ioRead port).rs = s.rs := rfl

/-- An instruction that ends in a write of the byte an IoRead received: the transaction, the register and CC show that
byte. -/
theorem State.ioRead_completes {i : Instr} {s : State} {port : IoPort} {r : Reg}
    (hexec : exec i s = .next ((s.ioRead port).loadReg r (s.ioIn port))) :
    Completes i s fun t => CCShows (t.reg r).toInt t.cc ∧
      Transacts (.ioRead port (t.reg r)) { regs := [physOf s.rs r], psl := ccBits } s t := by
  obtain ⟨hreg, hcc, hload⟩ := (s.ioRead port).loadReg_loads r (s.ioIn port)
  have htrace : ((s.ioRead port).loadReg r (s.ioIn port)).trace = s.trace ++ [.ioRead port (s.ioIn port)] :=
    State.setReg_trace _ r _
  refine ⟨_, hexec, ?_, ?_, ?_⟩
  · rw [hreg]
    exact hcc
  · rw [hreg, htrace]
  · exact ((s.record_frame _).trans hload).mono (by simp [MayChange.within, MayChange.and])

/-- Settles O52: three are IoWrite of the register, and three write what IoRead received as a result. -/
theorem inputAndOutput : Obligations.InputAndOutput := fun s _ _ =>
  ⟨⟨_, rfl, s.ioWrite_transacts _ _⟩, ⟨_, rfl, s.ioWrite_transacts _ _⟩, ⟨_, rfl, s.ioWrite_transacts _ _⟩,
    State.ioRead_completes rfl, State.ioRead_completes rfl, State.ioRead_completes rfl⟩

/-! ## What each shared operation does to the record -/

theorem Frame.trace_kept {c : MayChange} {s t : State} (h : Frame c s t) (hc : c.trace = false) : t.trace = s.trace := by
  obtain ⟨_, _, _, _, _, _, _, _, _, htrace, _⟩ := h
  exact htrace hc

@[simp] theorem State.loadReg_trace (s : State) (r : Reg) (v : Byte) : (s.loadReg r v).trace = s.trace := s.setReg_trace r v

@[simp] theorem State.arithReg_trace (s : State) (r : Reg) (x : AluResult) : (s.arithReg r x).trace = s.trace :=
  s.setReg_trace r x.value

@[simp] theorem State.adjustIndex_trace (s : State) (r : Reg) (ic : IndexControl) : (s.adjustIndex r ic).trace = s.trace :=
  (s.adjustIndex_spec r ic).trace_kept rfl

/-- MemWrite records the write at a device, and nothing anywhere else (R65). -/
theorem State.memWrite_trace_cases (s : State) (a : Word) (v : Byte) :
    (s.memWrite a v).trace = s.trace ∨ (s.memWrite a v).trace = s.trace ++ [.deviceWrite a v] := by
  obtain ⟨_, h⟩ | ⟨_, h⟩ | ⟨_, h⟩ := s.memWrite_spec a v <;> rw [h]
  · exact .inl rfl
  · exact .inl rfl
  · exact .inr rfl

/-- A direct address is reached without a read (R112, R113, R115). -/
theorem State.followReads_direct (s : State) {ind : Bool} (h : ind = false) (a : Word) : s.followReads ind a = [] := by
  rw [h]
  rfl

/-! ## How many transactions an instruction makes (R68, R76, R226) -/

theorem not_isIoTransaction_of_isDeviceRead {tr : Transaction} (h : isDeviceRead tr = true) :
    isIoTransaction tr = false := by
  cases tr
  case deviceRead => rfl
  all_goals exact nomatch h

theorem not_isDeviceRead_of_isIoTransaction {tr : Transaction} (h : isIoTransaction tr = true) :
    isDeviceRead tr = false := by
  cases tr
  case ioRead | ioWrite => rfl
  all_goals exact nomatch h

/-- At most `n` transactions, each a read at a device: what the bounds on an instruction's reads say (R76). -/
def AtMostReads (n : Nat) (reads : List Transaction) : Prop :=
  reads.length ≤ n ∧ ∀ tr ∈ reads, isDeviceRead tr = true

theorem atMostReads_nil (n : Nat) : AtMostReads n [] := ⟨Nat.zero_le n, fun _ h => nomatch h⟩

theorem AtMostReads.mono {m n : Nat} {reads : List Transaction} (h : AtMostReads m reads) (hmn : m ≤ n) :
    AtMostReads n reads := by
  obtain ⟨hlen, hdev⟩ := h
  exact ⟨hlen.trans hmn, hdev⟩

/-- The reads of an operand behind one pointer: the pointer's two and its own (R117). -/
theorem State.farIByteReads_bound (s : State) (a ea : Word) :
    AtMostReads 3 (s.farIReads farIMode a ++ s.memReads .data ea) :=
  deviceReads_append 2 1 _ _ (s.ptr16Reads_bound farPtrWrap a) (s.memReads_bound .data ea)

/-- From `s` to `t` the record grows by what `i` may make: one I/O transaction for an I/O instruction and none for any
other, no device read where `i` reads no memory, and at most three transactions. -/
def Records (i : Instr) (s t : State) : Prop :=
  ∃ more, t.trace = s.trace ++ more ∧ more.length ≤ 3 ∧
    (isIo i = true → more.length = 1 ∧ ∀ tr ∈ more, isIoTransaction tr = true) ∧
    (isIo i = false → ∀ tr ∈ more, isIoTransaction tr = false) ∧
    (readsMemory i = false → ∀ tr ∈ more, isDeviceRead tr = false)

section
variable {i : Instr} {s t u : State}

/-- The record of an I/O instruction (R226). -/
theorem Records.of_io {tr : Transaction} (ht : t.trace = s.trace ++ [tr]) (hio : isIo i = true)
    (htr : isIoTransaction tr = true) : Records i s t := by
  refine ⟨[tr], ht, by simp, fun _ => ⟨rfl, ?_⟩, fun h => Bool.noConfusion (hio.symm.trans h), fun _ => ?_⟩
  · simpa using htr
  · simpa using not_isDeviceRead_of_isIoTransaction htr

variable {reads : List Transaction} {a : Word} {v : Byte} {c : Bool} (hio : isIo i = false)
include hio

theorem Records.of_reads (ht : t.trace = s.trace ++ reads) (hreads : AtMostReads 3 reads)
    (hmem : readsMemory i = false → reads = []) : Records i s t := by
  obtain ⟨hlen, hdev⟩ := hreads
  refine ⟨reads, ht, hlen, fun h => Bool.noConfusion (hio.symm.trans h), fun _ tr htr => ?_, fun h => ?_⟩
  · exact not_isIoTransaction_of_isDeviceRead (hdev tr htr)
  · rw [hmem h]
    exact fun _ htr => nomatch htr

theorem Records.of_reads_deviceWrite (ht : t.trace = s.trace ++ (reads ++ [.deviceWrite a v]))
    (hreads : AtMostReads 2 reads) (hmem : readsMemory i = false → reads = []) : Records i s t := by
  obtain ⟨hlen, hdev⟩ := hreads
  refine ⟨_, ht, ?_, fun h => Bool.noConfusion (hio.symm.trans h), fun _ tr htr => ?_, fun h => ?_⟩
  · rw [List.length_append]
    exact Nat.succ_le_succ hlen
  · obtain hr | hw := List.mem_append.mp htr
    · exact not_isIoTransaction_of_isDeviceRead (hdev tr hr)
    · rw [List.mem_singleton.mp hw]
      rfl
  · rw [hmem h]
    simp [isDeviceRead]

theorem Records.of_trace_eq (ht : t.trace = s.trace) : Records i s t :=
  .of_reads hio (by rw [ht, List.append_nil]) (atMostReads_nil 3) fun _ => rfl

/-- An instruction with an operand in memory, read in the state `u` its index register's adjustment leaves. -/
theorem Records.of_operand (hu : u.trace = s.trace) (ht : t.trace = (u.record reads).trace)
    (hreads : AtMostReads 3 reads) (hmem : readsMemory i = true) : Records i s t :=
  .of_reads hio (by rw [ht, State.record_trace, hu]) hreads fun h => Bool.noConfusion (hmem.symm.trans h)

/-- A store through at most one pointer, in the state `u` its index register's adjustment leaves. -/
theorem Records.of_store (hu : u.trace = s.trace) (hreads : AtMostReads 2 reads)
    (hmem : readsMemory i = false → reads = []) : Records i s ((u.record reads).memWrite a v) := by
  obtain h | h := (u.record reads).memWrite_trace_cases a v
  · exact .of_reads hio (by rw [h, State.record_trace, hu]) (hreads.mono (by decide)) hmem
  · exact .of_reads_deviceWrite hio (by rw [h, State.record_trace, hu, List.append_assoc]) hreads hmem

/-- A branch to a target behind at most one pointer, in the state `u` a counting branch's count leaves. -/
theorem Records.of_branchIf (hu : u.trace = s.trace) (hreads : AtMostReads 2 reads)
    (hmem : readsMemory i = false → reads = []) : Records i s (u.branchIf c a reads) := by
  obtain ⟨_, h⟩ | ⟨_, h⟩ := u.branchIf_cases c a reads <;> rw [h]
  · exact .of_reads hio (by rw [State.setIp_trace, State.record_trace, hu]) (hreads.mono (by decide)) hmem
  · exact .of_trace_eq hio hu

theorem Records.of_callIf (hreads : AtMostReads 2 reads) (hmem : readsMemory i = false → reads = []) :
    Records i s (s.callIf c a reads) := by
  obtain ⟨_, h⟩ | ⟨_, h⟩ := s.callIf_cases c a reads <;> rw [h]
  · exact .of_reads hio rfl (hreads.mono (by decide)) hmem
  · exact .of_trace_eq hio rfl

end

/-- What each instruction adds to the record: its operand's reads, its store, its branch target's reads, its I/O
transaction, or, outside these, nothing, as its frame says. -/
theorem exec_records (i : Instr) (s t : State) (h : exec i s = .next t) : Records i s t := by
  cases i
  case chrp | extdPrefix | reserved | reservedExtended => exact nomatch h
  all_goals obtain rfl := Host.Outcome.next.inj h
  case wrtc | wrtd | wrte =>
    exact .of_io rfl rfl rfl
  case redc | redd | rede =>
    exact .of_io (State.loadReg_trace _ _ _) rfl rfl
  case lodr | eorr | andr | iorr =>
    exact .of_operand rfl rfl (State.loadReg_trace _ _ _) (s.relByteReads_bound _) rfl
  case addr | subr =>
    exact .of_operand rfl rfl (State.arithReg_trace _ _ _) (s.relByteReads_bound _) rfl
  case comr =>
    exact .of_operand rfl rfl (State.setCC_trace _ _) (s.relByteReads_bound _) rfl
  case loda r op | eora r op | anda r op | iora r op =>
    exact .of_operand rfl (s.adjustIndex_trace r op.ic) (State.loadReg_trace _ _ _) (State.absByteReads_bound _ _ _) rfl
  case adda r op | suba r op =>
    exact .of_operand rfl (s.adjustIndex_trace r op.ic) (State.arithReg_trace _ _ _) (State.absByteReads_bound _ _ _) rfl
  case coma r op =>
    exact .of_operand rfl (s.adjustIndex_trace r op.ic) (State.setCC_trace _ _) (State.absByteReads_bound _ _ _) rfl
  case lodf r a =>
    have hreads : AtMostReads 1 (s.memReads .data a) := s.memReads_bound .data a
    exact .of_operand rfl rfl (State.loadReg_trace _ _ _) (hreads.mono (by decide)) rfl
  case ldfi =>
    exact .of_operand rfl rfl (State.loadReg_trace _ _ _) (s.farIByteReads_bound _ _) rfl
  case strr =>
    exact .of_store rfl rfl (s.followReads_bound _ _) fun hdirect => s.followReads_direct hdirect _
  case stra r op =>
    exact .of_store rfl (s.adjustIndex_trace r op.ic) (State.followReads_bound _ _ _) fun hdirect =>
      State.followReads_direct _ hdirect _
  case strf r a =>
    have hstore : Records (.strf r a) s ((s.record []).memWrite a (s.reg r)) :=
      .of_store rfl rfl (atMostReads_nil 2) fun _ => rfl
    rwa [s.record_nil] at hstore
  case stfi =>
    exact .of_store rfl rfl (s.ptr16Reads_bound _ _) fun hnone => nomatch hnone
  case bctr | bcta | brnr | brna | bcfr | bcfa | zbrr | bxa =>
    exact .of_branchIf rfl rfl (s.followReads_bound _ _) fun hdirect => s.followReads_direct hdirect _
  case birr r _ | bira r _ | bdrr r _ | bdra r _ =>
    exact .of_branchIf rfl (s.setReg_trace r _) (State.followReads_bound _ _ _) fun hdirect =>
      State.followReads_direct _ hdirect _
  case bstr | bsta | bsnr | bsna | bsfr | bsfa | zbsr | bsxa =>
    exact .of_callIf rfl (s.followReads_bound _ _) fun hdirect => s.followReads_direct hdirect _
  case bctf | brnf | bcff | bxf =>
    exact .of_branchIf rfl rfl (atMostReads_nil 2) fun _ => rfl
  case birf r _ | bdrf r _ =>
    exact .of_branchIf rfl (s.setReg_trace r _) (atMostReads_nil 2) fun _ => rfl
  case bstf | bsnf | bsff | bsxf =>
    exact .of_callIf rfl (atMostReads_nil 2) fun _ => rfl
  all_goals exact .of_trace_eq rfl ((exec_frame _ s _ h).trace_kept rfl)

/-- Settles O16: the statement is `Records` of every instruction that goes on. -/
theorem ioTransactionsCounted : Obligations.IoTransactionsCounted := exec_records

end Sys2Proof.Machine

/-! SUPPORT. Program-status, halt, no-operation and bit-test instructions (spec/44_status.md): the writers of PSL, the tests
under mask, and waiting. -/

namespace Sys2Proof.Machine

/-! ## Program Status Lower (R231, R233, R236, R238, R240, R242) -/

/-- An instruction that ends in a write of PSL: the byte is stored whole, every bit has storage (R33). -/
theorem State.setPsl_completes {i : Instr} {s : State} {v : Byte} (hexec : exec i s = .next (s.setPsl v)) :
    Completes i s fun t => t.psl = v ∧ Frame { psl := [7, 6, 5, 4, 3, 2, 1, 0] } s t :=
  ⟨_, hexec, s.setPsl_psl v, s.setPsl_frame_all v⟩

/-- An instruction that ends in a test under mask (R240, R242). -/
theorem State.setCC_tests_completes {i : Instr} {s : State} {v mask : Byte}
    (hexec : exec i s = .next (s.setCC (testCC v mask))) : Completes i s (Tests v mask s) :=
  ⟨_, hexec, s.setCC_tests v mask⟩

/-- Settles O54: `spsl` is a write of PSL as a result, and the others write PSL, `cpsl` and `ppsl` bit by bit under the
mask. -/
theorem pslCopiesAndMasks : Obligations.PslCopiesAndMasks := by
  intro s mask
  refine ⟨encodedAs_of_encode rfl rfl, State.loadReg_completes rfl, encodedAs_of_encode rfl rfl, State.setPsl_completes rfl,
    encodedAs_of_encode rfl rfl, ?_, encodedAs_of_encode rfl rfl, ?_⟩
  · refine (State.setPsl_completes rfl).imp fun t ⟨hpsl, hframe⟩ => ⟨fun k hk => ?_, hframe⟩
    rw [hpsl, BitVec.getLsbD_and, BitVec.getLsbD_not, decide_eq_true hk, Bool.true_and]
  · refine (State.setPsl_completes rfl).imp fun t ⟨hpsl, hframe⟩ => ⟨fun k _ => ?_, hframe⟩
    rw [hpsl, BitVec.getLsbD_or]

/-- Settles O56: both are a test under mask, of PSL before CC is written and of a register. -/
theorem testsUnderMask : Obligations.TestsUnderMask := fun _ _ _ =>
  ⟨encodedAs_of_encode rfl rfl, State.setCC_tests_completes rfl, encodedAs_of_field rfl rfl (by decide),
    State.setCC_tests_completes rfl⟩

/-! ## Waiting (R44, R234, R241, R309) -/

/-- With II = 1 no interrupt is due, whatever is pending (R305): a halted core then waits for ever (R309, D16, log 38). -/
theorem State.interruptDue_of_inhibited {s : State} (hii : s.ii = true) : s.interruptDue = none :=
  s.interruptDue_none.mpr (.inl hii)

/-- HALTED has no part in whether an interrupt is due (R305). -/
theorem State.interruptDue_halted (s : State) (h : Bool) : { s with halted := h }.interruptDue = s.interruptDue := rfl

/-- Settles O28: the state `halt` leaves is one more halted state in which a step waits. -/
theorem nopHaltAndWait : Obligations.NopHaltAndWait := by
  intro s
  refine ⟨rfl, ⟨{ s with halted := true }, rfl, rfl, ?_, fun hdue => ?_⟩, fun hhalted hdue => ?_, fun hhalted hii => ?_⟩
  · exact exec_frame .halt s _ rfl
  · exact step_halted _ ((s.interruptDue_halted true).trans hdue) rfl
  · exact step_halted s hdue hhalted
  · exact step_halted s (State.interruptDue_of_inhibited hii) hhalted

end Sys2Proof.Machine

/-! SUPPORT. Zero-relative and indexed branch instructions (spec/45_zero_indexed_branch.md, spec/47_far.md). -/

namespace Sys2Proof.Machine

/-! ## The branches with no condition (R250 to R253, R292, R293) -/

/-- Settles O49: each is a branch, or a branch with link, whose test is the constant true, so the taken case of the shared
branch rule (R180) is the only one. -/
theorem zeroAndIndexedBranches : Obligations.ZeroAndIndexedBranches := fun _ _ _ _ =>
  have htaken : true = true ↔ True := iff_of_true rfl trivial
  ⟨State.branchIf_completes rfl htaken, State.callIf_completes rfl htaken,
    State.branchIf_completes rfl htaken, State.callIf_completes rfl htaken,
    State.branchIf_completes rfl htaken, State.callIf_completes rfl htaken⟩

end Sys2Proof.Machine

/-! SUPPORT. Extended instructions other than far addressing (spec/46_extended_misc.md): the trap flag, the status bytes on the
internal stack, and the instructions over R0 and R1. -/

namespace Sys2Proof.Machine

/-! ## The trap flag and the interrupt it requests (R265, R266, R302, R304) -/

/-- While TRAPP is set the trap requests its interrupt, so only II can keep an interrupt from being due. -/
theorem State.interruptDue_ne_none_of_trapp {s : State} (htrapp : s.trapp = true) :
    s.interruptDue ≠ none ↔ s.ii = false := by
  have hreq : s.requests ≠ [] := List.ne_nil_of_mem ((s.mem_requests .trap).mpr (.inl ⟨rfl, htrapp⟩))
  simp [s.interruptDue_none, hreq]

/-- With TRAPP clear and no source of the platform pending, nothing requests an interrupt. -/
theorem State.interruptDue_eq_none_of_idle {s : State} (htrapp : s.trapp = false) (hpending : s.irqPending = []) :
    s.interruptDue = none := by
  refine s.interruptDue_none.mpr (.inr (List.eq_nil_iff_forall_not_mem.mpr fun src hsrc => ?_))
  obtain ⟨_, hset⟩ | ⟨n, hn, _⟩ := (s.mem_requests src).mp hsrc
  · exact Bool.noConfusion (htrapp.symm.trans hset)
  · rw [hpending] at hn
    exact nomatch hn

/-- Settles O30: `trap` and `clrt` write TRAPP alone, so II and the platform's pending sources are those of `s`. -/
theorem trapRequestsInterrupt : Obligations.TrapRequestsInterrupt := fun s =>
  ⟨⟨_, rfl, rfl, s.trapp_frame true, State.interruptDue_ne_none_of_trapp rfl,
      (State.interruptDue_ne_none_of_trapp rfl).mpr (State.setII_ii _ false)⟩,
    ⟨_, rfl, rfl, s.trapp_frame false, State.interruptDue_eq_none_of_idle (s := { s with trapp := false }) rfl⟩⟩

/-! ## The status bytes on the internal stack (R268 to R270) -/

theorem exec_pshs (s : State) : exec .pshs s = .next (s.push16 (s.psuRead ++ s.psl)) := by rfl

theorem exec_pops (s : State) :
    exec .pops s =
      .next ((s.dropTop.setPsu (s.topOfStack.extractLsb' 8 8)).setPsl (s.topOfStack.extractLsb' 0 8)) := by rfl

/-- A bit of a byte taken out of a word. -/
theorem byteOf_getLsbD (v : Word) (start : Nat) {k : Nat} (hk : k < 8) :
    (v.extractLsb' start 8).getLsbD k = v.getLsbD (start + k) := by
  rw [BitVec.getLsbD_extractLsb', decide_eq_true hk, Bool.true_and]

/-- `pops` takes PSL from the low byte of the popped entry, and bits 6:0 of PSU from its high byte (R269, D12). -/
theorem pops_loads_status (s : State) :
    Completes .pops s fun t =>
      (∀ k, k < 8 → t.psl.getLsbD k = s.topOfStack.getLsbD k) ∧
      (∀ k, k < 7 → t.psu.getLsbD k = s.topOfStack.getLsbD (8 + k)) ∧ t.psu.getLsbD 7 = false ∧
      Frame { psl := [7, 6, 5, 4, 3, 2, 1, 0], psu := [7, 6, 5, 4, 3, 2, 1, 0] } s t := by
  obtain ⟨hbits, h7, _⟩ := s.dropTop.setPsu_spec (s.topOfStack.extractLsb' 8 8)
  refine ⟨_, exec_pops s, fun k hk => ?_, fun k hk => ?_, h7, frame_pops s _ (exec_pops s)⟩
  · rw [State.setPsl_psl, byteOf_getLsbD _ 0 hk, Nat.zero_add]
  · rw [State.setPsl_psu, hbits k hk, byteOf_getLsbD _ 8 (by omega)]

/-- Settles O31: `pshs` is a push of the two status bytes, `pops` a pop into them. -/
theorem programStatusOnStack : Obligations.ProgramStatusOnStack := by
  intro s
  obtain ⟨hentry, hsp, hframe⟩ := s.push16_spec (s.psuRead ++ s.psl)
  refine ⟨⟨_, exec_pshs s, ?_, hsp, s.psuRead_sense, s.psuRead_stored, hframe⟩, pops_loads_status s⟩
  rw [hentry, byte_append_toNat, Nat.mul_comm]

/-- A read of PSU stored back changes nothing: of the byte only the stored bits are kept (R31, D12). -/
theorem State.psuRead_masked {s : State} (h7 : s.psu.getLsbD 7 = false) : s.psuRead &&& 0x7F#8 = s.psu := by
  refine BitVec.eq_of_getLsbD_eq fun k hk => ?_
  rw [setPsu_getLsbD _ k hk]
  by_cases hk7 : k = 7
  · subst hk7
    exact h7.symm
  · rw [decide_eq_true hk7, Bool.true_and, s.psuRead_stored k (by omega)]

/-- `pops` of an entry that holds the status bytes of `s`, as `pshs` writes it, brings both back. -/
theorem pops_restores_status {s u : State} (h7 : s.psu.getLsbD 7 = false) (htop : u.topOfStack = s.psuRead ++ s.psl) :
    Completes .pops u fun t => t.psu = s.psu ∧ t.psl = s.psl := by
  refine ⟨_, exec_pops u, ?_, ?_⟩
  · rw [State.setPsl_psu, State.setPsu_psu, htop, append_extractHigh, State.psuRead_masked h7]
  · rw [State.setPsl_psl, htop, append_extractLow]

/-- Status bytes brought back as a whole leave the frame. -/
theorem Frame.status_restored {c : MayChange} {s t : State} (h : Frame c s t) (hpsu : t.psu = s.psu)
    (hpsl : t.psl = s.psl) : Frame { c with psl := [], psu := [] } s t := by
  obtain ⟨hregs, _, _, hrest⟩ := h
  exact ⟨hregs, fun k _ _ => by rw [hpsl], fun k _ _ => by rw [hpsu], hrest⟩

/-- Settles O32: `ppsl` keeps SP and the stack, so `pops` finds the entry `pshs` wrote; the frames of the three instructions
compose to that entry and the status bytes, which are brought back. -/
theorem pshsPopsRoundTrip : Obligations.PshsPopsRoundTrip := by
  intro s mask h7
  have hpshs := exec_pshs s
  set u := s.push16 (s.psuRead ++ s.psl)
  have hppsl : exec (.ppsl mask) u = .next (u.setPsl (u.psl ||| mask)) := by rfl
  have hentry : (u.setPsl (u.psl ||| mask)).topOfStack = s.psuRead ++ s.psl := (s.push16_pop _).1
  obtain ⟨t, hpops, hpsu, hpsl⟩ := pops_restores_status h7 hentry
  have hframe : Frame { stack := [s.sp], psl := [7, 6, 5, 4, 3, 2, 1, 0], psu := [7, 6, 5, 4, 3, 2, 1, 0] } s t :=
    (((frame_pshs s u hpshs).trans (frame_ppsl mask u _ hppsl)).trans (frame_pops _ t hpops)).mono
      (by simp [MayChange.within, MayChange.and, spBits])
  exact ⟨u, hpshs, _, hppsl, t, hpops, hpsu, hpsl, hframe.status_restored hpsu hpsl⟩

/-! ## R0 and R1 (R262 to R264, R267, R271) -/

/-- The product of two bytes fits in 16 bits (R262). -/
theorem product_toNat (a b : Byte) : (BitVec.ofNat 16 (a.toNat * b.toNat)).toNat = a.toNat * b.toNat := by
  have hlt : a.toNat * b.toNat < 2 ^ 16 := (Nat.mul_lt_mul'' a.isLt b.isLt).trans_eq (by decide)
  rw [BitVec.toNat_ofNat, Nat.mod_eq_of_lt hlt]

/-- An instruction that ends in a write of one register, with no flag (R264, R267). -/
theorem State.setReg_completes {i : Instr} {s : State} {r : Reg} {v : Byte} (hexec : exec i s = .next (s.setReg r v)) :
    Completes i s fun t => t.reg r = v ∧ Frame { regs := [physOf s.rs r] } s t :=
  ⟨_, hexec, (s.setReg_reg r r v).trans (if_pos rfl), s.setReg_frame r v⟩

/-- Settles O58: `mul` writes the two bytes of the product as a pair and then CC; `cpl` writes one register. -/
theorem multiplyAndComplement : Obligations.MultiplyAndComplement := by
  intro s r
  refine ⟨⟨_, rfl, ?_, ?_, frame_mul s _ rfl⟩, (State.setReg_completes rfl).imp fun t ⟨hreg, hframe⟩ => ⟨fun k hk => ?_, hframe⟩⟩
  · obtain ⟨hhigh, hlow, _⟩ := s.setPair_spec _ _
    rw [State.setCC_reg, State.setCC_reg, hhigh, hlow, word_of_bytes, product_toNat]
  · rw [State.setCC_cc]
    exact ccOf16_shows _
  · rw [hreg, BitVec.getLsbD_not, decide_eq_true hk, Bool.true_and]

/-- The vector base `svb` makes of two bytes: the high byte, the high half of the low one, and four zeros (R271). -/
theorem vectorBase_toNat (hi lo : Byte) :
    ((hi ++ lo.extractLsb' 4 4) ++ 0#4 : Word).toNat = 256 * hi.toNat + lo.toNat / 16 * 16 := by
  have hnibble : (lo.extractLsb' 4 4).toNat = lo.toNat / 16 := by
    rw [BitVec.extractLsb'_toNat, Nat.shiftRight_eq_div_pow]
    have := lo.isLt
    omega
  rw [BitVec.toNat_append, ← Nat.shiftLeft_add_eq_or_of_lt (0#4).isLt, BitVec.toNat_append,
    ← Nat.shiftLeft_add_eq_or_of_lt (lo.extractLsb' 4 4).isLt, hnibble, Nat.shiftLeft_eq, Nat.shiftLeft_eq]
  simp only [BitVec.toNat_ofNat]
  omega

/-- Settles O59: `xchg` writes the pair of the two old values, `clr` one register, `svb` IVB alone. -/
theorem exchangeClearVectorBase : Obligations.ExchangeClearVectorBase := by
  intro s r
  obtain ⟨hr1, hr0, hframe⟩ := s.setPair_spec (s.reg .r1) (s.reg .r0)
  exact ⟨encodedAs_of_encode rfl rfl, ⟨_, rfl, hr0, hr1, hframe⟩,
    encodedAs_of_field rfl rfl (by decide), State.setReg_completes rfl,
    encodedAs_of_encode rfl rfl, ⟨_, rfl, vectorBase_toNat _ _, s.ivb_frame _⟩⟩

end Sys2Proof.Machine

/-! SUPPORT. Far-addressed instructions (spec/47_far.md): the bytes of those with a 2-bit field in the second opcode byte, the
load and the branches without link. -/

namespace Sys2Proof.Machine

/-! ## The bytes of a far-addressed instruction (R100, R108 to R111) -/

/-- Any 2-bit field, a condition mask too, stands in bits 1:0 of an opcode byte as a register number does (R111). -/
theorem opcode_or_bits {op : Byte} (hop : op &&& 3#8 = 0#8) (f : BitVec 2) : op ||| f.setWidth 8 = op + f.setWidth 8 := by
  rw [← Reg.bits_ofBits f]
  exact opcode_or_field hop (Reg.ofBits f)

/-- The bytes of a far-addressed instruction with such a field: the prefix, its family's opcode byte plus the field, and the
address, high byte first (R108, R109). -/
theorem encodedAs_far_of_bits {i : Instr} {op : Byte} {f : BitVec 2} {a : Word} (h : WellFormed i)
    (hb : encode i = [extPrefix, op ||| f.setWidth 8, farHigh a, farLow a]) (hop : op &&& 3#8 = 0#8) :
    EncodedAs i [extPrefix, op + f.setWidth 8, farHigh a, farLow a] :=
  encodedAs_of_encode h (opcode_or_bits hop f ▸ hb)

/-! ## The far load and the far branches without link (R280, R284, R286, R288) -/

/-- Settles O34: `lodf` writes the byte at its address as a result, once the read is recorded. -/
theorem loadFar : Obligations.LoadFar := fun _ _ _ =>
  ⟨encodedAs_far_of_bits rfl rfl (by decide), State.loadReg_completes rfl⟩

/-- Settles O47: each is a branch on a condition, a register or a false condition (R127), and a mask other than `un` is what
makes `bcff` well-formed (R123). -/
theorem farBranches : Obligations.FarBranches := fun s m r _ =>
  ⟨encodedAs_far_of_bits rfl rfl (by decide), State.branchIf_completes rfl (s.condTrue_iff m),
    encodedAs_far_of_bits rfl rfl (by decide), State.branchIf_completes rfl (bne_iff_ne (a := s.reg r)),
    fun hm => ⟨encodedAs_far_of_bits (bne_iff_ne.mpr hm) rfl (by decide),
      State.branchIf_completes rfl (s.condFalse_iff m)⟩,
    Bool.false_ne_true, encodedAs_of_encode rfl rfl⟩

end Sys2Proof.Machine

/-! SUPPORT. Exceptions and interrupts (spec/60_exceptions.md): what the fetch of a reserved encoding does, and which interrupt
is due. -/

namespace Sys2Proof.Machine

/-! ## Reserved encodings (R109, R122, R300) -/

theorem BytesAt.of_append {s : State} {a : Word} {bytes rest : List Byte} (h : BytesAt s a (bytes ++ rest)) :
    BytesAt s a bytes := by
  induction bytes generalizing a with
  | nil => trivial
  | cons b bytes ih =>
    obtain ⟨hb, hbytes⟩ := h
    exact ⟨hb, ih hbytes⟩

/-- Where bytes stand that the decoder reads as an instruction, that instruction's own bytes stand. -/
theorem BytesAt.encode_of_decode {s : State} {a : Word} {bytes rest : List Byte} {i : Instr}
    (h : BytesAt s a bytes) (hdecode : decode bytes = .ok (i, rest)) : BytesAt s a (encode i) := by
  obtain ⟨rfl, _⟩ := encodeOfDecode bytes i rest hdecode
  exact h.of_append

/-- Any four bytes begin with a well-formed instruction (R120, R121), so the bytes of one always stand at IP. -/
theorem exists_wellFormed_bytesAt_ip (s : State) : ∃ i, WellFormed i ∧ BytesAt s s.ip (encode i) := by
  obtain ⟨i, _, hdecode, hwf, _⟩ :=
    decodeTotal s.byteAtIp s.advance.byteAtIp s.advance.advance.byteAtIp s.advance.advance.advance.byteAtIp []
  refine ⟨i, hwf, BytesAt.encode_of_decode ?_ hdecode⟩
  iterate 4 refine (bytesAt_ip_cons_iff _ _ _).mpr ⟨rfl, ?_⟩
  trivial

/-- The instruction fetched is well-formed, and its bytes are those at IP. -/
theorem fetchInstr_spec (s : State) : WellFormed (fetchInstr s).1 ∧ BytesAt s s.ip (encode (fetchInstr s).1) := by
  obtain ⟨i, hwf, hbytes⟩ := exists_wellFormed_bytesAt_ip s
  rw [fetchInstr_of_bytesAt hwf hbytes]
  exact ⟨hwf, hbytes⟩

/-- A well-formed instruction is the one fetched exactly where its bytes stand at IP. -/
theorem fetchInstr_eq_iff {i : Instr} {s : State} (hwf : WellFormed i) :
    (fetchInstr s).1 = i ↔ BytesAt s s.ip (encode i) :=
  ⟨fun h => h ▸ (fetchInstr_spec s).2, fun h => congrArg Prod.fst (fetchInstr_of_bytesAt hwf h)⟩

/-- Two bytes at IP. -/
theorem bytesAt_ip_pair_iff (s : State) (b c : Byte) :
    BytesAt s s.ip [b, c] ↔ s.byteAtIp = b ∧ s.advance.byteAtIp = c :=
  (bytesAt_ip_cons_iff s b [c]).trans
    (and_congr_right fun _ => (bytesAt_ip_cons_iff s.advance c []).trans (and_iff_left trivial))

theorem fetchInstr_eq_reserved_iff {s : State} : (fetchInstr s).1 = .reserved ↔ s.byteAtIp = 0xB6#8 :=
  (fetchInstr_eq_iff rfl).trans ((bytesAt_ip_cons_iff s _ []).trans (and_iff_left trivial))

theorem fetchInstr_eq_chrp_iff {s : State} :
    (fetchInstr s).1 = .chrp ↔ s.byteAtIp = extPrefix ∧ s.advance.byteAtIp = 0x13#8 :=
  (fetchInstr_eq_iff rfl).trans (bytesAt_ip_pair_iff s _ _)

/-- A blank cell is fetched as the reserved instruction of that cell, and as no other cell's. -/
theorem fetchInstr_eq_reservedExtended_iff {s : State} {op : Byte} :
    (fetchInstr s).1 = .reservedExtended op ↔
      s.byteAtIp = extPrefix ∧ s.advance.byteAtIp = op ∧ isBlankExtended op = true := by
  refine ⟨fun h => ?_, fun ⟨hprefix, hop, hblank⟩ => ?_⟩
  · obtain ⟨hwf, hbytes⟩ := fetchInstr_spec s
    rw [h] at hwf hbytes
    obtain ⟨hprefix, hop⟩ := (bytesAt_ip_pair_iff s _ _).mp hbytes
    exact ⟨hprefix, hop, hwf⟩
  · exact (fetchInstr_eq_iff (i := .reservedExtended op) hblank).mpr ((bytesAt_ip_pair_iff s _ _).mpr ⟨hprefix, hop⟩)

/-- The fetch after B7h reads on, so the prefix alone is never what is executed (R109). -/
theorem fetchInstr_ne_extdPrefix (s : State) : (fetchInstr s).1 ≠ .extdPrefix := fun h => by
  have hwf := (fetchInstr_spec s).1
  rw [h] at hwf
  exact nomatch hwf

theorem runInstr_of_exec_next {s t : State} (h : exec (fetchInstr s).1 (fetchInstr s).2 = .next t) :
    runInstr s = .next t.tick := by
  rw [runInstr, h]

theorem runInstr_of_exec_refused {s : State} {r : Refusal} (h : exec (fetchInstr s).1 (fetchInstr s).2 = .refused r) :
    runInstr s = .refused r := by
  rw [runInstr, h]

/-- A reserved encoding at IP is refused by the bytes that make it (R122, D17). -/
theorem runInstr_of_reservedAt {s : State} (h : reservedAt s) :
    runInstr s =
      .refused (.reservedOpcode (if s.byteAtIp = 0xB6#8 then [0xB6#8] else [0xB7#8, s.advance.byteAtIp])) := by
  apply runInstr_of_exec_refused
  obtain ⟨_, hreserved, hreservedExtended, _⟩ := reservedRowsRefused (fetchInstr s).2
  obtain hbase | ⟨hprefix, hext⟩ := h
  · rw [if_pos hbase, fetchInstr_eq_reserved_iff.mpr hbase]
    exact hreserved
  have hbase : s.byteAtIp ≠ 0xB6#8 := by
    rw [hprefix]
    decide
  rw [if_neg hbase]
  obtain hblank | hchrp := hext
  · rw [fetchInstr_eq_reservedExtended_iff.mpr ⟨hprefix, rfl, hblank⟩]
    exact hreservedExtended _
  · rw [fetchInstr_eq_chrp_iff.mpr ⟨hprefix, hchrp⟩, hchrp]
    rfl

/-- With any other bytes at IP the instruction fetched is none of the four rows without a behaviour (R300). -/
theorem runInstr_of_not_reservedAt {s : State} (h : ¬ reservedAt s) : ∃ t, runInstr s = .next t := by
  obtain ⟨t, ht⟩ : ∃ t, exec (fetchInstr s).1 (fetchInstr s).2 = .next t := by
    refine exec_next _ _ (fun hi => h ?_) (fun hi => h ?_) (fun op hi => h ?_) (fetchInstr_ne_extdPrefix s)
    · obtain ⟨hprefix, hop⟩ := fetchInstr_eq_chrp_iff.mp hi
      exact .inr ⟨hprefix, .inr hop⟩
    · exact .inl (fetchInstr_eq_reserved_iff.mp hi)
    · obtain ⟨hprefix, rfl, hblank⟩ := fetchInstr_eq_reservedExtended_iff.mp hi
      exact .inr ⟨hprefix, .inl hblank⟩
  exact ⟨t.tick, runInstr_of_exec_next ht⟩

/-- Settles O10: an interrupt is taken and a halted core waits; otherwise what is fetched is the instruction whose bytes stand
at IP, and only the reserved ones stop. -/
theorem stepGoesOnUnlessReserved : Obligations.StepGoesOnUnlessReserved := by
  intro s
  refine ⟨fun ⟨hdue, hhalted, hreserved⟩ => ?_, fun hgoes => ?_⟩
  · rw [step_runs s hdue hhalted]
    exact runInstr_of_reservedAt hreserved
  · cases hdue : s.interruptDue with
    | some src => exact ⟨_, step_due s src hdue⟩
    | none =>
      cases hhalted : s.halted with
      | true => exact ⟨_, step_halted s hdue hhalted⟩
      | false =>
        rw [step_runs s hdue hhalted]
        exact runInstr_of_not_reservedAt fun hreserved => hgoes ⟨hdue, hhalted, hreserved⟩

/-! ## The interrupt that is due (R302, R304, R305, R307) -/

theorem servedBefore_irrefl (x : IrqSource) : servedBefore x x = false := by
  rw [Bool.eq_false_iff, ne_eq, servedBefore_iff]
  omega

/-- Of two sources only one is served before the other. -/
theorem servedBefore_asymm {x y : IrqSource} (h : servedBefore x y = true) : servedBefore y x = false :=
  Bool.eq_false_iff.mpr fun g => Bool.eq_false_iff.mp (servedBefore_irrefl x) (servedBefore_trans h g)

theorem irqRankOf_le_of_servedBefore {x y : IrqSource} (h : servedBefore x y = true) : irqRankOf x ≤ irqRankOf y := by
  rw [servedBefore_iff] at h
  omega

/-- Two first sources of one set are one source. -/
theorem firstSource_unique {x y : IrqSource} (hx : y ≠ x → servedBefore x y = true)
    (hy : x ≠ y → servedBefore y x = true) : x = y :=
  by_contra fun hne => Bool.eq_false_iff.mp (servedBefore_asymm (hx (Ne.symm hne))) (hy hne)

theorem State.requests_eq_nil_iff (s : State) : s.requests = [] ↔ s.trapp = false ∧ s.irqPending = [] := by
  unfold State.requests
  cases s.trapp <;> simp

/-- The source taken, said by II and membership alone: the request that comes before every other one. -/
theorem State.interruptDue_eq_some_iff (s : State) (src : IrqSource) :
    s.interruptDue = some src ↔
      s.ii = false ∧ src ∈ s.requests ∧ ∀ x ∈ s.requests, x ≠ src → servedBefore src x = true := by
  refine ⟨s.interruptDue_some src, fun ⟨hii, hmem, hfirst⟩ => ?_⟩
  have hdue : s.interruptDue ≠ none := by
    rw [ne_eq, s.interruptDue_none, hii]
    rintro (hii | hnil)
    · exact nomatch hii
    · exact List.ne_nil_of_mem hmem hnil
  obtain ⟨src', hsrc'⟩ := Option.ne_none_iff_exists'.mp hdue
  obtain ⟨_, hmem', hfirst'⟩ := s.interruptDue_some src' hsrc'
  rw [hsrc', firstSource_unique (hfirst src' hmem') (hfirst' src hmem)]

/-- Which interrupt is due depends on II and the set of requests. -/
theorem State.interruptDue_congr {s t : State} (hii : s.ii = t.ii) (hmem : ∀ x, x ∈ s.requests ↔ x ∈ t.requests) :
    s.interruptDue = t.interruptDue :=
  Option.ext fun src => by
    rw [s.interruptDue_eq_some_iff, t.interruptDue_eq_some_iff, hii]
    simp only [hmem]

/-- Settles O25: none is due exactly when II = 1 or no source requests one. -/
theorem interruptDueWhen : Obligations.InterruptDueWhen := by
  intro s
  rw [← Option.ne_none_iff_exists', ne_eq, s.interruptDue_none, s.requests_eq_nil_iff, not_or, not_and_or,
    Bool.not_eq_true, Bool.not_eq_false]

/-- Settles O26: the order is that of pairs of a rank and a number of the source's own, and a set has one first element. -/
theorem highestPriorityServed : Obligations.HighestPriorityServed := by
  refine ⟨servedBefore_irrefl, fun _ _ _ => servedBefore_trans, fun _ _ => servedBefore_or,
    fun _ _ => irqRankOf_le_of_servedBefore, rfl, fun s src hdue => ?_, fun s t hii htrapp hpending => ?_⟩
  · obtain ⟨_, hmem, hfirst⟩ := s.interruptDue_some src hdue
    refine ⟨(s.mem_requests src).mp hmem, fun htrapp hne => ?_, fun n hn hne => ?_⟩
    · exact hfirst .trap ((s.mem_requests _).mpr (.inl ⟨rfl, htrapp⟩)) hne.symm
    · exact hfirst (.platform n) ((s.mem_requests _).mpr (.inr ⟨n, hn, rfl⟩)) hne.symm
  · refine State.interruptDue_congr hii fun x => ?_
    rw [s.mem_requests, t.mem_requests, htrapp]
    simp only [hpending]

end Sys2Proof.Machine
